-- ==== Sys2Proof/Word.lean ====
section
/-! DEFINITION. The word types of the CORE (spec 00_scope R6: every quantity is unsigned). -/

namespace Sys2Proof

/-- A memory byte, a general register, a timer (R10, R19, R21). -/
abbrev Byte := BitVec 8

/-- An instruction word, the index register, the program counter, a stack slot (R14, R15, R17, R60). -/
abbrev Word := BitVec 16

/-- The four-bit count `n` of an instruction word (R8). -/
abbrev Nibble := BitVec 4

/-- The twelve-bit address `nnn` of an instruction word (R8). -/
abbrev Addr12 := BitVec 12

/-- The number of a general register: `x` or `y` of an instruction word (R8, R10). -/
abbrev Reg := Fin 16

/-- The number of a key of the pad (R20). -/
abbrev Key := Fin 16

end Sys2Proof
end

