-- ==== Sys2Proof/Config.lean ====
section
/-! DEFINITION. The fixed sizes of the CORE (spec 00_scope R4) and its one free value, the random byte (42_alu R135). -/

namespace Sys2Proof.Config

/-- `MEMSIZE` (R4): addresses from here on do not exist. -/
def memSize : Nat := 4096

/-- The end of the read-only font region `[0x000, 0x050)` (R40). -/
def fontEnd : Nat := 0x050

/-- `PROG_BASE` (R4): where the program image is loaded and where execution begins. -/
def progBase : Nat := 0x200

/-- `PROG_MAX` (R4): the largest program image, in bytes. -/
def progMax : Nat := 3584

/-- `STACK_DEPTH` (R4). -/
def stackDepth : Nat := 16

/-- `FB_W` (R4): columns of the framebuffer. -/
def screenWidth : Nat := 64

/-- `FB_H` (R4): rows of the framebuffer. -/
def screenHeight : Nat := 32

/-- The random byte of the `k`-th execution of `CXNN` (R135: "one fresh value r ∈ 0..255 that is under no law").
DESIGN CHOICE, log entry 2: an uninterpreted function of the number of draws made so far; nothing can be proved of its
values. Safe for a claim about one run, unsafe for a claim that compares two runs. -/
opaque randomByte : Nat → Byte

end Sys2Proof.Config
end

