-- ==== Sys2Proof/Syntax.lean ====
section
/-! DEFINITION. The instructions: one constructor for each of the 34 rows of spec/opcode_table.json, in the table's
order. Each operand has exactly the values its field can hold (30_encoding R63: all of them are legal). -/

namespace Sys2Proof

/-- The instruction set (30_encoding R65). -/
inductive Instr where
  /-- `00E0` CLS (R160). -/
  | cls
  /-- `00EE` RET (R101). -/
  | ret
  /-- `1NNN` JP nnn (R102). -/
  | jp (nnn : Addr12)
  /-- `2NNN` CALL nnn (R103). -/
  | call (nnn : Addr12)
  /-- `3XNN` SE Vx, nn (R105). -/
  | seImm (x : Reg) (nn : Byte)
  /-- `4XNN` SNE Vx, nn (R106). -/
  | sneImm (x : Reg) (nn : Byte)
  /-- `5XY0` SE Vx, Vy (R107). -/
  | seReg (x y : Reg)
  /-- `6XNN` LD Vx, nn (R120). -/
  | ldImm (x : Reg) (nn : Byte)
  /-- `7XNN` ADD Vx, nn (R121). -/
  | addImm (x : Reg) (nn : Byte)
  /-- `8XY0` LD Vx, Vy (R122). -/
  | ldReg (x y : Reg)
  /-- `8XY1` OR Vx, Vy (R123). -/
  | orReg (x y : Reg)
  /-- `8XY2` AND Vx, Vy (R124). -/
  | andReg (x y : Reg)
  /-- `8XY3` XOR Vx, Vy (R125). -/
  | xorReg (x y : Reg)
  /-- `8XY4` ADD Vx, Vy (R126). -/
  | addReg (x y : Reg)
  /-- `8XY5` SUB Vx, Vy (R127). -/
  | subReg (x y : Reg)
  /-- `8XY6` SHR Vx (R128); its y field is ignored (R68) and is no operand. -/
  | shr (x : Reg)
  /-- `8XY7` SUBN Vx, Vy (R129). -/
  | subnReg (x y : Reg)
  /-- `8XYE` SHL Vx (R130); its y field is ignored (R68) and is no operand. -/
  | shl (x : Reg)
  /-- `9XY0` SNE Vx, Vy (R108). -/
  | sneReg (x y : Reg)
  /-- `ANNN` LD I, nnn (R140). -/
  | ldI (nnn : Addr12)
  /-- `BNNN` JP V0, nnn (R104). -/
  | jpV0 (nnn : Addr12)
  /-- `CXNN` RND Vx, nn (R131). -/
  | rnd (x : Reg) (nn : Byte)
  /-- `DXYN` DRW Vx, Vy, n (R161). -/
  | drw (x y : Reg) (n : Nibble)
  /-- `EX9E` SKP Vx (R170). -/
  | skp (x : Reg)
  /-- `EXA1` SKNP Vx (R171). -/
  | sknp (x : Reg)
  /-- `FX07` LD Vx, DT (R172). -/
  | ldVxDT (x : Reg)
  /-- `FX0A` LD Vx, K (R175). -/
  | ldVxK (x : Reg)
  /-- `FX15` LD DT, Vx (R173). -/
  | ldDTVx (x : Reg)
  /-- `FX18` LD ST, Vx (R174). -/
  | ldSTVx (x : Reg)
  /-- `FX1E` ADD I, Vx (R141). -/
  | addIVx (x : Reg)
  /-- `FX29` LD F, Vx (R142). -/
  | ldF (x : Reg)
  /-- `FX33` LD B, Vx (R144). -/
  | ldB (x : Reg)
  /-- `FX55` LD [I], Vx (R145). -/
  | storeRegs (x : Reg)
  /-- `FX65` LD Vx, [I] (R146). -/
  | loadRegs (x : Reg)
  deriving DecidableEq, Repr

end Sys2Proof
end

