-- ==== Sys2Proof/Decode.lean ====
section
/-! DEFINITION. The decoder (30_encoding R61, R64), total on any bytes and rejecting by name, and after it the encoder
(R62, R65). PRESUMED, log entry 5: the bit patterns and the places of the fields are general knowledge, not the
source's (spec decision D1); unsafe, if a pattern is another. -/

namespace Sys2Proof

/-- Why bytes are no instruction. The illegal words are named by their family, as in the table of R67. -/
inductive Reject where
  /-- fewer than the two bytes every instruction has (R60) -/
  | truncated
  /-- `0x0nnn` other than `00E0` and `00EE` -/
  | illegalFamily0
  /-- `5XYn` with n ≠ 0 -/
  | illegalFamily5
  /-- `8XYn` with n in 8..D or F -/
  | illegalFamily8
  /-- `9XYn` with n ≠ 0 -/
  | illegalFamily9
  /-- `EXnn` with an unlisted nn -/
  | illegalFamilyE
  /-- `FXnn` with an unlisted nn -/
  | illegalFamilyF
  deriving DecidableEq, Repr

/-- `op = w[15:12]` (R61). -/
def opField (w : Word) : Nibble := w.extractLsb' 12 4

/-- `x = w[11:8]` (R61). -/
def xField (w : Word) : Reg := ⟨(w.extractLsb' 8 4).toNat, (w.extractLsb' 8 4).isLt⟩

/-- `y = w[7:4]` (R61). -/
def yField (w : Word) : Reg := ⟨(w.extractLsb' 4 4).toNat, (w.extractLsb' 4 4).isLt⟩

/-- `n = w[3:0]` (R61). -/
def nField (w : Word) : Nibble := w.extractLsb' 0 4

/-- `nn = w[7:0]` (R61). -/
def nnField (w : Word) : Byte := w.extractLsb' 0 8

/-- `nnn = w[11:0]` (R61). -/
def nnnField (w : Word) : Addr12 := w.extractLsb' 0 12

/-- Family 0 (R64). -/
def decodeFamily0 (w : Word) : Except Reject Instr :=
  if w = 0x00E0 then .ok .cls else if w = 0x00EE then .ok .ret else .error .illegalFamily0

/-- Family 8: `n` is the sub-opcode (R64). -/
def decodeFamily8 (w : Word) : Except Reject Instr :=
  match (nField w).toNat with
  | 0x0 => .ok (.ldReg (xField w) (yField w))
  | 0x1 => .ok (.orReg (xField w) (yField w))
  | 0x2 => .ok (.andReg (xField w) (yField w))
  | 0x3 => .ok (.xorReg (xField w) (yField w))
  | 0x4 => .ok (.addReg (xField w) (yField w))
  | 0x5 => .ok (.subReg (xField w) (yField w))
  | 0x6 => .ok (.shr (xField w))
  | 0x7 => .ok (.subnReg (xField w) (yField w))
  | 0xE => .ok (.shl (xField w))
  | _ => .error .illegalFamily8

/-- Family E: `nn` is the sub-opcode (R64). -/
def decodeFamilyE (w : Word) : Except Reject Instr :=
  match (nnField w).toNat with
  | 0x9E => .ok (.skp (xField w))
  | 0xA1 => .ok (.sknp (xField w))
  | _ => .error .illegalFamilyE

/-- Family F: `nn` is the sub-opcode (R64). -/
def decodeFamilyF (w : Word) : Except Reject Instr :=
  match (nnField w).toNat with
  | 0x07 => .ok (.ldVxDT (xField w))
  | 0x0A => .ok (.ldVxK (xField w))
  | 0x15 => .ok (.ldDTVx (xField w))
  | 0x18 => .ok (.ldSTVx (xField w))
  | 0x1E => .ok (.addIVx (xField w))
  | 0x29 => .ok (.ldF (xField w))
  | 0x33 => .ok (.ldB (xField w))
  | 0x55 => .ok (.storeRegs (xField w))
  | 0x65 => .ok (.loadRegs (xField w))
  | _ => .error .illegalFamilyF

/-- The decoding procedure of R64: every word is exactly one instruction or illegal. -/
def decodeWord (w : Word) : Except Reject Instr :=
  match (opField w).toNat with
  | 0x0 => decodeFamily0 w
  | 0x1 => .ok (.jp (nnnField w))
  | 0x2 => .ok (.call (nnnField w))
  | 0x3 => .ok (.seImm (xField w) (nnField w))
  | 0x4 => .ok (.sneImm (xField w) (nnField w))
  | 0x5 => if nField w = 0 then .ok (.seReg (xField w) (yField w)) else .error .illegalFamily5
  | 0x6 => .ok (.ldImm (xField w) (nnField w))
  | 0x7 => .ok (.addImm (xField w) (nnField w))
  | 0x8 => decodeFamily8 w
  | 0x9 => if nField w = 0 then .ok (.sneReg (xField w) (yField w)) else .error .illegalFamily9
  | 0xA => .ok (.ldI (nnnField w))
  | 0xB => .ok (.jpV0 (nnnField w))
  | 0xC => .ok (.rnd (xField w) (nnField w))
  | 0xD => .ok (.drw (xField w) (yField w) (nField w))
  | 0xE => decodeFamilyE w
  | _ => decodeFamilyF w

/-- The word in two bytes, the high byte first: `{hi, lo}` (R44, R45). -/
def joinBytes (hi lo : Byte) : Word := hi ++ lo

/-- The byte at `pc`, `w[15:8]` (R45). -/
def highByte (w : Word) : Byte := w.extractLsb' 8 8

/-- The byte at `pc + 1`, `w[7:0]` (R45). -/
def lowByte (w : Word) : Byte := w.extractLsb' 0 8

/-- Decoding a list of bytes: the instruction in its first two bytes, and the rest (R60). -/
def decodeBytes : List Byte → Except Reject (Instr × List Byte)
  | hi :: lo :: rest =>
    match decodeWord (joinBytes hi lo) with
    | .ok i => .ok (i, rest)
    | .error e => .error e
  | _ => .error .truncated

/-- A register number as the four bits of a field. -/
def regBits (r : Reg) : Nibble := BitVec.ofNat 4 r.val

/-- Format `A` (R62): `op`, then `nnn`. -/
def formatA (op : Nibble) (nnn : Addr12) : Word := op ++ nnn

/-- Format `XI` (R62), and format `XS` with a fixed `nn`. -/
def formatXI (op : Nibble) (x : Reg) (nn : Byte) : Word := (op ++ regBits x : BitVec 8) ++ nn

/-- Format `XYN` (R62), and format `XY` with a fixed `n`. -/
def formatXYN (op : Nibble) (x y : Reg) (n : Nibble) : Word :=
  (op ++ regBits x : BitVec 8) ++ (regBits y ++ n : BitVec 8)

/-- The word of an instruction (R62, R65); SHR and SHL have y = 0, the canonical spelling of R68. -/
def encode : Instr → Word
  | .cls => 0x00E0
  | .ret => 0x00EE
  | .jp nnn => formatA 0x1 nnn
  | .call nnn => formatA 0x2 nnn
  | .seImm x nn => formatXI 0x3 x nn
  | .sneImm x nn => formatXI 0x4 x nn
  | .seReg x y => formatXYN 0x5 x y 0x0
  | .ldImm x nn => formatXI 0x6 x nn
  | .addImm x nn => formatXI 0x7 x nn
  | .ldReg x y => formatXYN 0x8 x y 0x0
  | .orReg x y => formatXYN 0x8 x y 0x1
  | .andReg x y => formatXYN 0x8 x y 0x2
  | .xorReg x y => formatXYN 0x8 x y 0x3
  | .addReg x y => formatXYN 0x8 x y 0x4
  | .subReg x y => formatXYN 0x8 x y 0x5
  | .shr x => formatXYN 0x8 x 0 0x6
  | .subnReg x y => formatXYN 0x8 x y 0x7
  | .shl x => formatXYN 0x8 x 0 0xE
  | .sneReg x y => formatXYN 0x9 x y 0x0
  | .ldI nnn => formatA 0xA nnn
  | .jpV0 nnn => formatA 0xB nnn
  | .rnd x nn => formatXI 0xC x nn
  | .drw x y n => formatXYN 0xD x y n
  | .skp x => formatXI 0xE x 0x9E
  | .sknp x => formatXI 0xE x 0xA1
  | .ldVxDT x => formatXI 0xF x 0x07
  | .ldVxK x => formatXI 0xF x 0x0A
  | .ldDTVx x => formatXI 0xF x 0x15
  | .ldSTVx x => formatXI 0xF x 0x18
  | .addIVx x => formatXI 0xF x 0x1E
  | .ldF x => formatXI 0xF x 0x29
  | .ldB x => formatXI 0xF x 0x33
  | .storeRegs x => formatXI 0xF x 0x55
  | .loadRegs x => formatXI 0xF x 0x65

/-- The two bytes of an instruction as memory holds them, the high byte at the lower address (R45). -/
def encodeBytes (i : Instr) : List Byte := [highByte (encode i), lowByte (encode i)]

/-- The one word of an instruction whose low `nbits` bits are `w` and whose other bits are 0. -/
def tableWord (nbits w : Nat) : Word := BitVec.ofNat 16 (w % 2 ^ nbits)

/-- What the decoder reads from an instruction whose bits are `w`, numbered as spec/opcode_table.json numbers them: the
word laid out in memory order, high byte first (R45). -/
def decodeTableWord (nbits w : Nat) : Option Instr :=
  match decodeBytes [highByte (tableWord nbits w), lowByte (tableWord nbits w)] with
  | .ok (i, _) => some i
  | .error _ => none

end Sys2Proof
end

