-- ==== Sys2Proof/Machine/State.lean ====
section
/-! DEFINITION. The state of the CORE (spec 10_state R10 to R35), plain data, and the state right after reset
(70_reset_and_hazards R240). -/

namespace Sys2Proof.Machine

/-- Memory `M` (R21): the bytes that differ from what an unlisted address reads as, addresses strictly rising. -/
abbrev Memory := List Host.Cell

/-- The framebuffer `FB` (R23): 32 rows, from the top, of 64 one-bit cells, from the left. -/
abbrev Screen := Vector (Vector Bool 64) 32

/-- The execution mode `MODE` (R31). -/
inductive Mode where
  /-- ready to execute the next instruction -/
  | run
  /-- awaiting a key-down for register `r`, entered by `FX0A` (R175) -/
  | wait (r : Reg)
  /-- stopped by a fault; only reset leaves it (R204) -/
  | halt
  deriving DecidableEq, Repr

/-- The kinds of AddressError (R202). -/
inductive AddressKind where
  | fetchMisaligned
  | fetchOob
  | dataOob
  | fontWrite
  | keyIndex
  deriving DecidableEq, Repr

/-- The kinds of StackError (R202). -/
inductive StackKind where
  | overflow
  | underflow
  deriving DecidableEq, Repr

/-- Cause, kind and info of a fault record (R201, R202). The address of an AddressError is an unbounded number (R57). -/
inductive Cause where
  | addressError (kind : AddressKind) (addr : Nat)
  | stackError (kind : StackKind)
  | decodeError (word : Word)
  | loadError (length : Nat)
  deriving DecidableEq, Repr

/-- A fault record (R201): what happened, and the address of the instruction whose step faulted. -/
structure FaultRecord where
  cause : Cause
  pc : Word
  deriving DecidableEq, Repr

/-- The whole state of the CORE (R35), and one field of the model's own, `draws`. -/
@[ext]
structure State where
  /-- the general registers `V0`..`VF` (R10) -/
  v : Vector Byte 16
  /-- the index register `I` (R14) -/
  i : Word
  /-- the program counter (R15) -/
  pc : Word
  /-- the stack pointer: the count of entries used (R18) -/
  sp : Byte
  /-- the return-address stack `S` (R17) -/
  stack : Vector Word 16
  /-- the delay timer `DT` (R19) -/
  dt : Byte
  /-- the sound timer `ST` (R19) -/
  st : Byte
  /-- the key-state table `K` (R20): true is pressed -/
  keys : Vector Bool 16
  /-- the memory `M` (R21) -/
  mem : Memory
  /-- the framebuffer `FB` (R23): true is set -/
  fb : Screen
  /-- the redraw flag `RD` (R25) -/
  rd : Bool
  /-- the execution mode `MODE` (R31) -/
  mode : Mode
  /-- the fault record `FAULT` (R32) -/
  fault : Option FaultRecord
  /-- THE MODEL'S OWN: how many random bytes have been drawn (log entry 2); the CORE has no such register (R34) -/
  draws : Nat
  deriving DecidableEq, Repr

/-- Why the model stops outside the spec's own faults, which are next states (R203, log entry 3). -/
inductive Fault where
  /-- Raised by `2NNN` CALL and `00EE` RET when the 8-bit stack pointer holds more than 16. R18 rules such a state out
  and no run reaches it, so the spec gives it no effect. Safe (log entry 4). -/
  | stackPointerOutOfRange
  deriving DecidableEq, Repr

/-- Why the model gives an instruction no meaning. -/
inductive Refusal where
  /-- Raised by `exec` for an instruction that has no meaning yet; none is left. Safe. -/
  | notModelled (mnemonic : String)
  deriving DecidableEq, Repr

/-- What a meaning and a step answer. -/
abbrev Result := Host.Outcome State Fault Refusal

/-- The machine right after reset with the empty program image (R240). Memory lists nothing: an unlisted address reads
as the font or as 0 (R41). The values of `I`, the timers, `FB` and `RD` are the spec's decision D16 (log entry 1);
`draws` is the model's own (DESIGN CHOICE, log entry 2). -/
def State.reset : State where
  v := Vector.replicate 16 0
  i := 0
  pc := 0x0200
  sp := 0
  stack := Vector.replicate 16 0
  dt := 0
  st := 0
  keys := Vector.replicate 16 false
  mem := []
  fb := Vector.replicate 32 (Vector.replicate 64 false)
  rd := false
  mode := .run
  fault := none
  draws := 0

end Sys2Proof.Machine
end

