-- ==== Sys2Proof/Machine/Font.lean ====
section
/-! DEFINITION. The built-in font (10_state R24) and what a byte of memory that no write has changed reads as (20_memory
R41). PRESUMED, log entry 6: the 80 font bytes are general knowledge, not the source's (spec decision D17); unsafe for a
claim about what a glyph looks like. -/

namespace Sys2Proof.Machine

/-- Glyphs 0 to 7 (R24). -/
def fontLow : List Byte :=
  [0xF0, 0x90, 0x90, 0x90, 0xF0] ++ [0x20, 0x60, 0x20, 0x20, 0x70] ++
  [0xF0, 0x10, 0xF0, 0x80, 0xF0] ++ [0xF0, 0x10, 0xF0, 0x10, 0xF0] ++
  [0x90, 0x90, 0xF0, 0x10, 0x10] ++ [0xF0, 0x80, 0xF0, 0x10, 0xF0] ++
  [0xF0, 0x80, 0xF0, 0x90, 0xF0] ++ [0xF0, 0x10, 0x20, 0x40, 0x40]

/-- Glyphs 8 to F (R24). -/
def fontHigh : List Byte :=
  [0xF0, 0x90, 0xF0, 0x90, 0xF0] ++ [0xF0, 0x90, 0xF0, 0x10, 0xF0] ++
  [0xF0, 0x90, 0xF0, 0x90, 0x90] ++ [0xE0, 0x90, 0xE0, 0x90, 0xE0] ++
  [0xF0, 0x80, 0x80, 0x80, 0xF0] ++ [0xE0, 0x90, 0x90, 0x90, 0xE0] ++
  [0xF0, 0x80, 0xF0, 0x80, 0xF0] ++ [0xF0, 0x80, 0xF0, 0x80, 0x80]

/-- The 80 bytes of the font, at addresses `0x000` to `0x04F` (R24). -/
def font : List Byte := fontLow ++ fontHigh

/-- What an address that memory does not list reads as: the font below `0x050`, else 0 (R41, with no image). -/
def unlistedByte (a : Nat) : Byte := font.getD a 0

end Sys2Proof.Machine
end

