-- ==== Sys2Proof/Machine/Ops.lean ====
section
/-! DEFINITION. The named operations over registers, memory, the stack and the timers; taking a fault (60_exceptions R203). -/

namespace Sys2Proof.Machine

/-! ### General registers (R10) -/

/-- `VF`, the flag register (R7, R11). -/
def vf : Reg := 15

/-- `V[r]`. -/
def State.reg (s : State) (r : Reg) : Byte := s.v[r]

/-- `V[r] <- b`. -/
def State.setReg (s : State) (r : Reg) (b : Byte) : State := { s with v := s.v.set r b }

/-- A flag write stores exactly `0x00` or `0x01` in `VF` (R13). -/
def State.setFlag (s : State) (f : Bool) : State := s.setReg vf (if f then 1 else 0)

/-- The whole register file written. -/
def State.setRegs (s : State) (v : Vector Byte 16) : State := { s with v := v }

/-- `I <- w` (R14). -/
def State.setIndex (s : State) (w : Word) : State := { s with i := w }

/-- `DT <- b` (R19). -/
def State.setDelay (s : State) (b : Byte) : State := { s with dt := b }

/-- `ST <- b` (R19). -/
def State.setSound (s : State) (b : Byte) : State := { s with st := b }

/-- One more random byte drawn (R135; the model's own count, log entry 2). -/
def State.countDraw (s : State) : State := { s with draws := s.draws + 1 }

/-- `MODE <- WAIT(r)` (R175). -/
def State.enterWait (s : State) (r : Reg) : State := { s with mode := .wait r }

/-! ### The program counter (R15, R84) -/

/-- A straight-line instruction: `pc <- pc0 + 2`. -/
def State.advance (s : State) : State := { s with pc := s.pc + 2 }

/-- A skip: `pc <- pc0 + 4` if the condition holds, else `pc0 + 2`; the skipped word is not looked at. -/
def State.skipIf (s : State) (c : Bool) : State := { s with pc := if c then s.pc + 4 else s.pc + 2 }

/-- A control transfer: `pc <- target`, not checked (R100). -/
def State.jumpTo (s : State) (target : Word) : State := { s with pc := target }

/-! ### Taking a fault (R203) -/

/-- The code of a cause (R202). -/
def Cause.code : Cause → Nat
  | .addressError _ _ => 1
  | .stackError _ => 2
  | .decodeError _ => 3
  | .loadError _ => 4

/-- The state after a fault: the record holds the cause and the `pc` of the faulting instruction, the mode is HALT,
nothing else changes (R203). There is no return from a fault: only reset leaves HALT (R204). -/
def State.halted (s : State) (c : Cause) : State := { s with fault := some ⟨c, s.pc⟩, mode := .halt }

/-- Taking a fault is a next state, since `FAULT` and `MODE` are state (R32, R203; log entry 3). -/
def takeFault (c : Cause) (s : State) : Result := .next (s.halted c)

/-! ### Memory (R40 to R43) -/

/-- The byte at an address: the listed one, else what an unlisted address reads as. -/
def Memory.read : Memory → Nat → Byte
  | [], a => unlistedByte a
  | (k, b) :: m, a => if a = k then b else Memory.read m a

/-- Put a byte before the rest of the list, unless it is what the unlisted address reads as. -/
def Memory.consCell (a : Nat) (b : Byte) (m : Memory) : Memory := if b = unlistedByte a then m else (a, b) :: m

/-- The byte at one address written, in the canonical form. -/
def Memory.write : Memory → Nat → Byte → Memory
  | [], a, b => Memory.consCell a b []
  | (k, c) :: m, a, b =>
    if a < k then Memory.consCell a b ((k, c) :: m)
    else if a = k then Memory.consCell a b m
    else (k, c) :: Memory.write m a b

/-- Bytes written at `a`, `a + 1`, … -/
def Memory.writeRange : Memory → Nat → List Byte → Memory
  | m, _, [] => m
  | m, a, b :: bs => Memory.writeRange (Memory.write m a b) (a + 1) bs

/-- The `n` bytes at `a`, `a + 1`, … -/
def Memory.readRange (m : Memory) : Nat → Nat → List Byte
  | _, 0 => []
  | a, n + 1 => Memory.read m a :: Memory.readRange m (a + 1) n

/-- The list is in the canonical form with all its addresses at or above `lo`: addresses strictly rising, no entry
equal to what an unlisted address reads as. -/
def Memory.wfFrom : Nat → Memory → Bool
  | _, [] => true
  | lo, (a, b) :: m => decide (lo ≤ a) && (b != unlistedByte a) && Memory.wfFrom (a + 1) m

/-- The canonical form of a memory. -/
def Memory.wf (m : Memory) : Bool := Memory.wfFrom 0 m

/-- Every listed address is one a write may reach, in `[0x050, 0x1000)`: so the font is unchanged (R36, R43). -/
def Memory.inRam (m : Memory) : Bool := m.all (fun c => decide (Config.fontEnd ≤ c.1) && decide (c.1 < Config.memSize))

/-- What `MemRead(addr, 1)` raises (R42). -/
def readCheck (a : Nat) : Option Cause :=
  if a < Config.memSize then none else some (.addressError .dataOob a)

/-- What `MemWrite(addr, 1, v)` raises (R43). -/
def writeCheck (a : Nat) : Option Cause :=
  if Config.memSize ≤ a then some (.addressError .dataOob a)
  else if a < Config.fontEnd then some (.addressError .fontWrite a)
  else none

/-- The check of `n` addresses from `a` up, before anything is changed: the lowest offending one is reported (R58). -/
def precheck (check : Nat → Option Cause) : Nat → Nat → Option Cause
  | _, 0 => none
  | a, n + 1 =>
    match check a with
    | some c => some c
    | none => precheck check (a + 1) n

/-- Go on with `done` if the `n` addresses from `I` up are readable, else fault with nothing changed (R58). -/
def guardRead (n : Nat) (s done : State) : Result :=
  match precheck readCheck s.i.toNat n with
  | some c => takeFault c s
  | none => .next done

/-- Go on with `done` if the `n` addresses from `I` up are writable, else fault with nothing changed (R58). -/
def guardWrite (n : Nat) (s done : State) : Result :=
  match precheck writeCheck s.i.toNat n with
  | some c => takeFault c s
  | none => .next done

/-- Bytes stored at `I`, `I + 1`, … (R57: the addresses are not wrapped). -/
def State.storeAtI (s : State) (bs : List Byte) : State := { s with mem := Memory.writeRange s.mem s.i.toNat bs }

/-! ### The return-address stack (R17, R18) -/

/-- `S[sp] <- pc`, `sp + 1`, then the jump (R18, R103). -/
def State.pushed (s : State) (target : Word) (h : s.sp.toNat < 16) : State :=
  { s with stack := s.stack.set s.sp.toNat s.pc h, sp := s.sp + 1, pc := target }

/-- `sp - 1`, then `pc` from `S[sp]`, plus 2; the popped slot keeps its value (R18, R101). -/
def State.popped (s : State) (h : s.sp.toNat - 1 < 16) : State :=
  { s with sp := s.sp - 1, pc := s.stack[s.sp.toNat - 1] + 2 }

/-- Push `pc` and jump (R103). A stack pointer above 16 is no state of the CORE (R18):
the model stops there, log entry 4. -/
def callTo (target : Word) (s : State) : Result :=
  if h : s.sp.toNat < 16 then .next (s.pushed target h)
  else if s.sp.toNat = Config.stackDepth then takeFault (.stackError .overflow) s
  else .fault .stackPointerOutOfRange

/-- Pop into `pc` and add 2 (R101); with no entry it is StackError underflow (R206). -/
def popReturn (s : State) : Result :=
  if s.sp = 0 then takeFault (.stackError .underflow) s
  else if h : s.sp.toNat - 1 < 16 then .next (s.popped h)
  else .fault .stackPointerOutOfRange

/-! ### The timers and the fetch (R82, R44) -/

/-- One count of a timer, with its floor at zero (R19). -/
def countDown (t : Byte) : Byte := if t = 0 then 0 else t - 1

/-- The timer tick, the first action of a RUN-mode step (R82). -/
def State.tick (s : State) : State := { s with dt := countDown s.dt, st := countDown s.st }

/-- The fetch (R44): alignment first, then bounds, then the two bytes, big-endian. -/
def fetch (s : State) : Except Cause Word :=
  if s.pc.toNat % 2 = 1 then .error (.addressError .fetchMisaligned s.pc.toNat)
  else if Config.memSize ≤ s.pc.toNat + 1 then .error (.addressError .fetchOob s.pc.toNat)
  else .ok (joinBytes (Memory.read s.mem s.pc.toNat) (Memory.read s.mem (s.pc.toNat + 1)))

/-- One instruction word placed at `pc`, high byte first (R45): not an action of the CORE, but of who loads a program. -/
def State.placeWord (s : State) (w : Word) : State :=
  { s with mem := Memory.writeRange s.mem s.pc.toNat [highByte w, lowByte w] }

end Sys2Proof.Machine
end

