-- ==== Sys2Proof/Machine/Operands.lean ====
section
/-! DEFINITION. The operand forms (30_encoding R63, 43_index_memory R143): addresses, key numbers, digits, pixels. -/

namespace Sys2Proof.Machine

/-- The address `nnn`, zero-extended to 16 bits (R102, R140). -/
def addrWord (nnn : Addr12) : Word := nnn.setWidth 16

/-- A byte, zero-extended to 16 bits. -/
def byteWord (b : Byte) : Word := b.setWidth 16

/-- The address of the glyph of a digit: `FONT_BASE + a * 5`, of all eight bits of `a` (R142). -/
def glyphAddr (a : Byte) : Word := byteWord a * 5

/-- `I` after a block transfer of `V0`..`Vx`: `(I + x + 1) mod 65536` (R145, R146). -/
def indexAfter (x : Reg) (s : State) : Word := s.i + BitVec.ofNat 16 (x.val + 1)

/-- The registers `V0`..`Vx`, x included, `V0` first (R145). -/
def regsUpTo (x : Reg) (s : State) : List Byte := s.v.toList.take (x.val + 1)

/-- The register file after a load of `V0`..`Vx` from `I` up; the other registers keep their values (R146). -/
def regsLoaded (x : Reg) (s : State) : Vector Byte 16 :=
  Vector.ofFn (fun k : Fin 16 => if k ≤ x then Memory.read s.mem (s.i.toNat + k.val) else s.v[k])

/-- The decimal digits of a byte: hundreds, tens, ones, each in its own byte (R144). -/
def bcdDigits (a : Byte) : List Byte :=
  [BitVec.ofNat 8 (a.toNat / 100), BitVec.ofNat 8 (a.toNat / 10 % 10), BitVec.ofNat 8 (a.toNat % 10)]

/-- The key that `Vx` names; a value above 15 is AddressError key_index, never masked (R170, R171). -/
def keyOperand (x : Reg) (s : State) : Except Cause Key :=
  if h : (s.reg x).toNat < 16 then .ok ⟨(s.reg x).toNat, h⟩
  else .error (.addressError .keyIndex (s.reg x).toNat)

/-- The level of a key (R20). -/
def State.key (s : State) (k : Key) : Bool := s.keys[k]

/-- The random byte this execution draws (R135). -/
def randomDraw (s : State) : Byte := Config.randomByte s.draws

/-- The column of a sprite pixel: `(Vx + c) mod 64` (R163). -/
def pixelColumn (vx : Byte) (c : Nat) : Fin 64 := ⟨(vx.toNat + c) % 64, Nat.mod_lt _ (by decide)⟩

/-- The row of a sprite pixel: `(Vy + r) mod 32` (R163). -/
def pixelRow (vy : Byte) (r : Nat) : Fin 32 := ⟨(vy.toNat + r) % 32, Nat.mod_lt _ (by decide)⟩

/-- The sprite bit of column offset `c`: bit 7 is the leftmost pixel (R162; PRESUMED, log entry 7). -/
def spriteBit (b : Byte) (c : Nat) : Bool := b.getLsbD (7 - c)

end Sys2Proof.Machine
end

