-- ==== Sys2Proof/Machine/Flags.lean ====
section
/-! DEFINITION. What each flag-writing instruction puts in `VF` (10_state R13), from operands read before any write. -/

namespace Sys2Proof.Machine

/-- Carry of `8XY4`: Vx + Vy > 255 (R126). -/
def carryFlag (a b : Byte) : Bool := decide (255 < a.toNat + b.toNat)

/-- `8XY5` and `8XY7`: the minuend is strictly greater, so 0 when the operands are equal (R127, R129). -/
def greaterFlag (minuend subtrahend : Byte) : Bool := decide (subtrahend.toNat < minuend.toNat)

/-- `8XY6`: the old bit 0 (R128). -/
def lowBitFlag (a : Byte) : Bool := a.getLsbD 0

/-- `8XYE`: the old bit 7 (R130). -/
def highBitFlag (a : Byte) : Bool := a.getLsbD 7

/-- `FX1E`: the unreduced sum is past 0xFFF (R141). -/
def indexFlag (i : Word) (a : Byte) : Bool := decide (0x0FFF < i.toNat + a.toNat)

end Sys2Proof.Machine
end

