-- ==== Sys2Proof/Machine/Alu.lean ====
section
/-! DEFINITION. Register load, arithmetic, logic, shift and random (42_alu R120 to R135). Operands are read first, the
result is written next and the flag last (R9, R132; log entry 9). -/

namespace Sys2Proof.Machine

/-- `Vx` receives a result, `pc <- pc0 + 2`. -/
def resultTo (x : Reg) (b : Byte) (s : State) : Result := .next (s.setReg x b).advance

/-- `Vx` receives a result, then `VF` the flag, `pc <- pc0 + 2`: with x = 15 the flag remains (R132). -/
def resultFlagTo (x : Reg) (b : Byte) (f : Bool) (s : State) : Result := .next ((s.setReg x b).setFlag f).advance

/-- `6XNN` LD Vx, nn (R120). -/
def execLdImm (x : Reg) (nn : Byte) (s : State) : Result := resultTo x nn s

/-- `7XNN` ADD Vx, nn (R121): no flag. -/
def execAddImm (x : Reg) (nn : Byte) (s : State) : Result := resultTo x (s.reg x + nn) s

/-- `8XY0` LD Vx, Vy (R122). -/
def execLdReg (x y : Reg) (s : State) : Result := resultTo x (s.reg y) s

/-- `8XY1` OR Vx, Vy (R123). -/
def execOrReg (x y : Reg) (s : State) : Result := resultTo x (s.reg x ||| s.reg y) s

/-- `8XY2` AND Vx, Vy (R124). -/
def execAndReg (x y : Reg) (s : State) : Result := resultTo x (s.reg x &&& s.reg y) s

/-- `8XY3` XOR Vx, Vy (R125). -/
def execXorReg (x y : Reg) (s : State) : Result := resultTo x (s.reg x ^^^ s.reg y) s

/-- `8XY4` ADD Vx, Vy (R126). -/
def execAddReg (x y : Reg) (s : State) : Result :=
  resultFlagTo x (s.reg x + s.reg y) (carryFlag (s.reg x) (s.reg y)) s

/-- `8XY5` SUB Vx, Vy (R127). -/
def execSubReg (x y : Reg) (s : State) : Result :=
  resultFlagTo x (s.reg x - s.reg y) (greaterFlag (s.reg x) (s.reg y)) s

/-- `8XY7` SUBN Vx, Vy (R129). -/
def execSubnReg (x y : Reg) (s : State) : Result :=
  resultFlagTo x (s.reg y - s.reg x) (greaterFlag (s.reg y) (s.reg x)) s

/-- `8XY6` SHR Vx (R128): in place, `Vy` is not used. -/
def execShr (x : Reg) (s : State) : Result := resultFlagTo x (s.reg x >>> 1) (lowBitFlag (s.reg x)) s

/-- `8XYE` SHL Vx (R130): in place, `Vy` is not used. -/
def execShl (x : Reg) (s : State) : Result := resultFlagTo x (s.reg x <<< 1) (highBitFlag (s.reg x)) s

/-- `CXNN` RND Vx, nn (R131): the random byte is a free value, one draw per execution (R135, log entry 2). -/
def execRnd (x : Reg) (nn : Byte) (s : State) : Result :=
  resultTo x (randomDraw s &&& nn) s.countDraw

end Sys2Proof.Machine
end

