-- ==== Sys2Proof/Machine/ControlFlow.lean ====
section
/-! DEFINITION. Control flow (41_control_flow R100 to R110). -/

namespace Sys2Proof.Machine

/-- `00EE` RET (R101). -/
def execRet (s : State) : Result := popReturn s

/-- `1NNN` JP nnn (R102). -/
def execJp (nnn : Addr12) (s : State) : Result := .next (s.jumpTo (addrWord nnn))

/-- `2NNN` CALL nnn (R103): the value pushed is the address of the call itself. -/
def execCall (nnn : Addr12) (s : State) : Result := callTo (addrWord nnn) s

/-- `BNNN` JP V0, nnn (R104): the sum is held in 16 bits, not reduced to 12. -/
def execJpV0 (nnn : Addr12) (s : State) : Result := .next (s.jumpTo (addrWord nnn + byteWord (s.reg 0)))

/-- `3XNN` SE Vx, nn (R105). -/
def execSeImm (x : Reg) (nn : Byte) (s : State) : Result := .next (s.skipIf (s.reg x == nn))

/-- `4XNN` SNE Vx, nn (R106). -/
def execSneImm (x : Reg) (nn : Byte) (s : State) : Result := .next (s.skipIf (s.reg x != nn))

/-- `5XY0` SE Vx, Vy (R107). -/
def execSeReg (x y : Reg) (s : State) : Result := .next (s.skipIf (s.reg x == s.reg y))

/-- `9XY0` SNE Vx, Vy (R108). -/
def execSneReg (x y : Reg) (s : State) : Result := .next (s.skipIf (s.reg x != s.reg y))

end Sys2Proof.Machine
end

