-- ==== Sys2Proof/Machine/Display.lean ====
section
/-! DEFINITION. The display (44_display R160 to R167): clear screen and draw sprite. Each pixel wraps (R163; the spec's
decision D8, log entry 8). -/

namespace Sys2Proof.Machine

/-- The cell at row `y`, column `x`: `FB[y][x]` (R23). -/
def Screen.cell (f : Screen) (y : Fin 32) (x : Fin 64) : Bool := f[y][x]

/-- One cell XORed with 1 (R161). -/
def Screen.toggle (f : Screen) (y : Fin 32) (x : Fin 64) : Screen := f.set y (f[y].set x (!f[y][x]))

/-- All 2048 cells clear (R160). -/
def blankScreen : Screen := Vector.replicate 32 (Vector.replicate 64 false)

/-- The framebuffer while a sprite is drawn, and `hit`: has a set cell been turned off yet (R164)? -/
structure Drawing where
  screen : Screen
  hit : Bool
  deriving DecidableEq, Repr

/-- One sprite pixel: a 0 bit leaves its cell alone and is no collision (R161, R164). -/
def drawPixel (vx vy : Byte) (r : Nat) (b : Byte) (d : Drawing) (c : Nat) : Drawing :=
  if spriteBit b c then
    ⟨d.screen.toggle (pixelRow vy r) (pixelColumn vx c),
      d.hit || d.screen.cell (pixelRow vy r) (pixelColumn vx c)⟩
  else d

/-- The eight pixels of one sprite row, from the left. -/
def drawRow (vx vy : Byte) (r : Nat) (b : Byte) (d : Drawing) : Drawing :=
  [0, 1, 2, 3, 4, 5, 6, 7].foldl (drawPixel vx vy r b) d

/-- The rows of a sprite, downwards from row offset `r`. -/
def drawRows (vx vy : Byte) : Nat → List Byte → Drawing → Drawing
  | _, [], d => d
  | r, b :: bs, d => drawRows vx vy (r + 1) bs (drawRow vx vy r b d)

/-- The sprite of `n` rows at `I`, drawn at `Vx`, `Vy`. -/
def spriteDrawn (x y : Reg) (n : Nibble) (s : State) : Drawing :=
  drawRows (s.reg x) (s.reg y) 0 (Memory.readRange s.mem s.i.toNat n.toNat) ⟨s.fb, false⟩

/-- The framebuffer written by an instruction: `RD` is set whether or not a cell changed (R25). -/
def State.setScreen (s : State) (f : Screen) : State := { s with fb := f, rd := true }

/-- `00E0` CLS (R160). -/
def execCls (s : State) : Result := .next (s.setScreen blankScreen).advance

/-- `DXYN` DRW Vx, Vy, n (R161). -/
def execDrw (x y : Reg) (n : Nibble) (s : State) : Result :=
  guardRead n.toNat s
    ((s.setScreen (spriteDrawn x y n s).screen).setFlag (spriteDrawn x y n s).hit).advance

end Sys2Proof.Machine
end

