-- ==== Sys2Proof/Machine/IndexMemory.lean ====
section
/-! DEFINITION. The index register and memory (43_index_memory R140 to R148). -/

namespace Sys2Proof.Machine

/-- `ANNN` LD I, nnn (R140). -/
def execLdI (nnn : Addr12) (s : State) : Result := .next (s.setIndex (addrWord nnn)).advance

/-- `FX1E` ADD I, Vx (R141): `I` keeps 16 bits, the flag is of the unreduced sum and is written last. -/
def execAddIVx (x : Reg) (s : State) : Result :=
  .next ((s.setIndex (s.i + byteWord (s.reg x))).setFlag (indexFlag s.i (s.reg x))).advance

/-- `FX29` LD F, Vx (R142). -/
def execLdF (x : Reg) (s : State) : Result := .next (s.setIndex (glyphAddr (s.reg x))).advance

/-- `FX33` LD B, Vx (R144). -/
def execLdB (x : Reg) (s : State) : Result := guardWrite 3 s (s.storeAtI (bcdDigits (s.reg x))).advance

/-- `FX55` LD [I], Vx (R145): x + 1 bytes, then `I` is past the last one. -/
def execStoreRegs (x : Reg) (s : State) : Result :=
  guardWrite (x.val + 1) s ((s.storeAtI (regsUpTo x s)).setIndex (indexAfter x s)).advance

/-- `FX65` LD Vx, [I] (R146): x + 1 registers, then `I` is past the last byte read. -/
def execLoadRegs (x : Reg) (s : State) : Result :=
  guardRead (x.val + 1) s ((s.setRegs (regsLoaded x s)).setIndex (indexAfter x s)).advance

end Sys2Proof.Machine
end

