-- ==== Sys2Proof/Machine/TimersKeypad.lean ====
section
/-! DEFINITION. Timer and keypad instructions (45_timers_keypad R170 to R179). The step's timer tick has already
happened when one of them executes (40_step_cycle R82). -/

namespace Sys2Proof.Machine

/-- A skip on the level of the key `Vx` names; a number above 15 faults (R170, R171). -/
def skipOnKey (pressed : Bool) (x : Reg) (s : State) : Result :=
  match keyOperand x s with
  | .ok k => .next (s.skipIf (s.key k == pressed))
  | .error c => takeFault c s

/-- `EX9E` SKP Vx (R170). -/
def execSkp (x : Reg) (s : State) : Result := skipOnKey true x s

/-- `EXA1` SKNP Vx (R171). -/
def execSknp (x : Reg) (s : State) : Result := skipOnKey false x s

/-- `FX07` LD Vx, DT (R172). -/
def execLdVxDT (x : Reg) (s : State) : Result := .next (s.setReg x s.dt).advance

/-- `FX15` LD DT, Vx (R173). -/
def execLdDTVx (x : Reg) (s : State) : Result := .next (s.setDelay (s.reg x)).advance

/-- `FX18` LD ST, Vx (R174). -/
def execLdSTVx (x : Reg) (s : State) : Result := .next (s.setSound (s.reg x)).advance

/-- `FX0A` LD Vx, K (R175): only enters WAIT(x), `pc` stays; the host's `setKey` completes it (R176). -/
def execLdVxK (x : Reg) (s : State) : Result := .next (s.enterWait x)

end Sys2Proof.Machine
end

