-- ==== Sys2Proof/Machine/Cycle.lean ====
section
/-! DEFINITION. The transition of one step (40_step_cycle R80 to R85). -/

namespace Sys2Proof.Machine

/-- Decode and execute a fetched word; an illegal word faults (R67, R207). -/
def decodeAndExec (w : Word) (s : State) : Result :=
  match decodeWord w with
  | .ok i => exec i s
  | .error _ => takeFault (.decodeError w) s

/-- Fetch, decode, execute, in the order of R85: the first check that fails is the fault taken. -/
def runInstr (s : State) : Result :=
  match fetch s with
  | .ok w => decodeAndExec w s
  | .error c => takeFault c s

/-- One step (R80): in RUN mode the timer tick, then one instruction; the tick is kept if it faults (R82). In WAIT and
HALT nothing changes (R81). -/
def cycle (s : State) : Result :=
  match s.mode with
  | .run => runInstr s.tick
  | .wait _ => .next s
  | .halt => .next s

end Sys2Proof.Machine
end

