-- ==== Sys2Proof/Machine/Step.lean ====
section
/-! DEFINITION. The step port (40_step_cycle R80), and a word placed where the next step fetches. -/

namespace Sys2Proof.Machine

/-- `step()`: one step of the CORE (R80). -/
def step (s : State) : Host.Outcome State Fault Refusal := cycle s

/-- The state with an instruction's word stored at `pc`, high byte first (R45), all else unchanged: it stands for the
load of a program from outside (R241, log entry 17). `w` is numbered as spec/opcode_table.json numbers bits. In RUN
mode, with a `pc` that passes the fetch check, the next step runs exactly this instruction. -/
def State.withFetchWord (s : State) (nbits w : Nat) : State := s.placeWord (tableWord nbits w)

end Sys2Proof.Machine
end

