-- ==== Sys2Proof/Machine/HostPort.lean ====
section
/-! DEFINITION. The platform interface (60_exceptions R223 to R231): what the host does between steps, each action atomic
(20_memory R51). -/

namespace Sys2Proof.Machine

/-- The state with one key's level changed (R20). -/
def State.setKeyLevel (s : State) (k : Key) (p : Bool) : State := { s with keys := s.keys.set k p }

/-- The completion of `FX0A` for register `r` by key `k` (R176). -/
def State.completeWait (s : State) (r : Reg) (k : Key) : State :=
  { ((s.setKeyLevel k true).setReg r (BitVec.ofNat 8 k.val)).advance with mode := .run }

/-- `setKey(k, p)` (R224): a new key-down completes a pending wait, any other event only sets the key's level. -/
def setKey (k : Key) (p : Bool) (s : State) : State :=
  match s.mode with
  | .wait r => if p && !s.key k then s.completeWait r k else s.setKeyLevel k p
  | .run => s.setKeyLevel k p
  | .halt => s.setKeyLevel k p

/-- The grid `takeFrame()` returns: cell (x, y) at index `y * 64 + x` (R225). -/
def frameOf (s : State) : Vector Bool 2048 :=
  Vector.ofFn (fun k : Fin 2048 => s.fb[k.val / 64][k.val % 64])

/-- `RD <- 0` (R225). -/
def State.clearRedraw (s : State) : State := { s with rd := false }

/-- `takeFrame()` (R225): the grid, and `RD` cleared. -/
def takeFrame (s : State) : Vector Bool 2048 × State := (frameOf s, s.clearRedraw)

/-- `soundTimer()` (R226). -/
def soundTimer (s : State) : Byte := s.st

/-- The collaborator's reading of the sound timer: nonzero is audible (R226). -/
def audible (s : State) : Bool := soundTimer s != 0

/-- Reset with a program image (R240 to R242): the image from `0x200` up; one that is too large is a LoadError and no
byte of it is copied. -/
def resetWith (img : List Byte) : State :=
  if img.length ≤ Config.progMax then
    { State.reset with mem := Memory.writeRange State.reset.mem Config.progBase img }
  else
    State.reset.halted (.loadError img.length)

/-- An action of the host (R231). Its reads of `ST`, `RD` and `FAULT` change nothing and are no event. -/
inductive Event where
  | reset (img : List Byte)
  | step
  | setKey (k : Key) (p : Bool)
  | takeFrame
  deriving DecidableEq, Repr

/-- What an action of the host does. Reset creates the machine anew; the random input is no state of the CORE (R34), so
the count of its draws goes on (log entry 2). -/
def act (e : Event) (s : State) : Result :=
  match e with
  | .reset img => .next { resetWith img with draws := s.draws }
  | .step => step s
  | .setKey k p => .next (setKey k p s)
  | .takeFrame => .next (takeFrame s).2

/-- A sequence of actions, stopping where the model stops. -/
def actAll : List Event → State → Result
  | [], s => .next s
  | e :: es, s =>
    match act e s with
    | .next t => actAll es t
    | .fault r => .fault r
    | .refused r => .refused r

end Sys2Proof.Machine
end

