-- ==== Sys2Proof/Safety.lean ====
section
/-! DEFINITION. What counts as a safe state and a safe run (60_exceptions R205), and the invariant of the CORE
(10_state R36). -/

namespace Sys2Proof.Machine

/-- No fault is recorded (R205). -/
def State.Safe (s : State) : Prop := s.fault = none

/-- `k` steps end in a state with no fault recorded (R205). -/
def SafeFor (k : Nat) (s : State) : Prop := ∃ t : State, Sys2Proof.core.run k s = .next t ∧ t.Safe

/-- A `pc` an instruction can be fetched from: even and at most `0xFFE` (R44). -/
def Fetchable (pc : Word) : Prop := pc.toNat % 2 = 0 ∧ pc.toNat ≤ 0x0FFE

/-- At this state a step fetches the word of instruction `i` (R44, R64). -/
def Fetches (s : State) (i : Instr) : Prop :=
  Fetchable s.pc ∧
    decodeWord (joinBytes (Memory.read s.mem s.pc.toNat) (Memory.read s.mem (s.pc.toNat + 1))) = .ok i

/-- The invariant of the CORE. R36 gives most of it; the last three clauses are what makes R36 inductive (DEDUCED, log
entry 28). -/
structure State.Inv (s : State) : Prop where
  /-- memory is in its canonical form -/
  memWf : Memory.wf s.mem = true
  /-- only RAM is written, so the font is as at reset (R36, R43) -/
  memRam : Memory.inRam s.mem = true
  /-- 0 ≤ sp ≤ 16 (R18) -/
  spBound : s.sp.toNat ≤ 16
  /-- every live stack entry is even and at most 0xFFE (R36) -/
  stackLive : ∀ k : Fin 16, k.val < s.sp.toNat → Fetchable s.stack[k]
  /-- pc ≤ 0x10FE (R16) -/
  pcBound : s.pc.toNat ≤ 0x10FE
  /-- FAULT ≠ NONE iff MODE = HALT (R32) -/
  faultHalt : s.fault = none ↔ s.mode ≠ .halt
  /-- a waiting CORE stands at the `FX0A` it fetched (R175) -/
  waitPc : ∀ r, s.mode = .wait r → Fetchable s.pc
  /-- the record's pc is the machine's (R201) -/
  faultPc : ∀ f, s.fault = some f → f.pc = s.pc

end Sys2Proof.Machine
end

