-- ==== Sys2Proof/Certificates/Slice0/Obligations.lean ====
section
/-! DEFINITION. The statements about the CORE. A docstring names the rule of spec/ a statement formalises, or the spec's
own decision (D<n> of 92_eei_decisions.md) and the log entry it rests on. -/

namespace Sys2Proof.Claims

open Sys2Proof.Machine

/-! ### Parts of the state that an instruction leaves unchanged -/

/-- Every general register but those of the list is unchanged. -/
def SameRegsBut (rs : List Reg) (s t : State) : Prop := ∀ r, r ∉ rs → t.reg r = s.reg r

/-- Every byte of memory reads as before. -/
def SameMemory (s t : State) : Prop := ∀ a, Memory.read t.mem a = Memory.read s.mem a

/-- Every byte of memory outside the `n` bytes from `a` up reads as before. -/
def SameMemoryBut (a n : Nat) (s t : State) : Prop :=
  ∀ a', (a' < a ∨ a + n ≤ a') → Memory.read t.mem a' = Memory.read s.mem a'

/-- The stack pointer and every stack slot are unchanged. -/
def SameStack (s t : State) : Prop := t.sp = s.sp ∧ t.stack = s.stack

/-- Both timers are unchanged. -/
def SameTimers (s t : State) : Prop := t.dt = s.dt ∧ t.st = s.st

/-- Every cell of the framebuffer and the redraw flag are unchanged. -/
def SameScreen (s t : State) : Prop := t.fb = s.fb ∧ t.rd = s.rd

/-- The mode, the fault record and the key table are unchanged. -/
def SameControl (s t : State) : Prop := t.mode = s.mode ∧ t.fault = s.fault ∧ t.keys = s.keys

/-- Only the program counter may differ. -/
def OnlyPc (s t : State) : Prop :=
  SameRegsBut [] s t ∧ t.i = s.i ∧ SameMemory s t ∧ SameStack s t ∧ SameTimers s t ∧ SameScreen s t ∧ SameControl s t

/-- Only general registers of the list and the program counter may differ. -/
def OnlyRegsPc (rs : List Reg) (s t : State) : Prop :=
  SameRegsBut rs s t ∧ t.i = s.i ∧ SameMemory s t ∧ SameStack s t ∧ SameTimers s t ∧ SameScreen s t ∧ SameControl s t

/-- Only general registers of the list, the index register and the program counter may differ. -/
def OnlyRegsIndexPc (rs : List Reg) (s t : State) : Prop :=
  SameRegsBut rs s t ∧ SameMemory s t ∧ SameStack s t ∧ SameTimers s t ∧ SameScreen s t ∧ SameControl s t

/-- What taking a fault leaves (60_exceptions, section 2): the record with the cause and the `pc` of the instruction, mode
HALT, and everything else as it was. -/
structure FaultTaken (c : Cause) (s t : State) : Prop where
  record : t.fault = some ⟨c, s.pc⟩
  halted : t.mode = .halt
  pcKept : t.pc = s.pc
  regs : SameRegsBut [] s t
  index : t.i = s.i
  memory : SameMemory s t
  stack : SameStack s t
  timers : SameTimers s t
  screen : SameScreen s t
  keys : t.keys = s.keys

/-- A flag as a byte: exactly 0 or 1 (10_state, section 2). -/
def flagByte (p : Prop) [Decidable p] : Byte := if p then 1 else 0

/-- A function applied to the next state, if there is one. -/
def onNext (f : State → State) : Result → Result
  | .next s => .next (f s)
  | .fault r => .fault r
  | .refused r => .refused r

/-- The general registers an instruction may write (the last column of the table in 10_state, section 1); `FX0A` writes
its register only when the key-down arrives. -/
def mayWriteReg (i : Instr) (r : Reg) : Bool :=
  match i with
  | .ldImm x _ | .addImm x _ | .ldReg x _ | .orReg x _ | .andReg x _ | .xorReg x _ | .rnd x _ | .ldVxDT x => r == x
  | .addReg x _ | .subReg x _ | .subnReg x _ | .shr x | .shl x => r == x || r == 15
  | .drw _ _ _ | .addIVx _ => r == 15
  | .loadRegs x => decide (r ≤ x)
  | _ => false

/-- The instructions that write the index register (10_state, section 3). -/
def mayWriteIndex : Instr → Bool
  | .ldI _ | .addIVx _ | .ldF _ | .storeRegs _ | .loadRegs _ => true
  | _ => false

/-- The instructions that write memory (20_memory, section 2). -/
def mayWriteMemory : Instr → Bool
  | .ldB _ | .storeRegs _ => true
  | _ => false

/-- The instructions that write the framebuffer and the redraw flag (10_state, section 9). -/
def mayWriteScreen : Instr → Bool
  | .cls | .drw _ _ _ => true
  | _ => false

/-- The instructions that use the return-address stack (10_state, section 5). -/
def usesStack : Instr → Bool
  | .call _ | .ret => true
  | _ => false

end Sys2Proof.Claims

open Sys2Proof Sys2Proof.Machine Sys2Proof.Claims

/-! ### The step -/

/-- 40_step_cycle section 1, 20_memory section 3 (decision D18): in RUN mode a step ticks the timers and is then `exec` of
the instruction fetched; the tick changes nothing but the two timers. -/
def Obligations.StepRunsFetchedInstruction : Prop :=
  ∀ (s : State) (i : Instr), s.mode = .run → Fetches s i →
    step s = exec i s.tick ∧ s.tick.dt.toNat = s.dt.toNat - 1 ∧ s.tick.st.toNat = s.st.toNat - 1 ∧
      OnlyPc s { s.tick with dt := s.dt, st := s.st } ∧ s.tick.pc = s.pc

/-- 20_memory section 3 and the priority of 60_exceptions section 3 (decisions D5, D19, D20; log entries 12, 16): an odd
`pc` is fetch_misaligned, even when it is also out of range; an even one with `pc + 1 ≥ 4096` is fetch_oob; the tick is
kept. -/
def Obligations.BadFetchHalts : Prop :=
  ∀ s : State, s.mode = .run →
    (s.pc.toNat % 2 = 1 → ∃ t, step s = .next t ∧ FaultTaken (.addressError .fetchMisaligned s.pc.toNat) s.tick t) ∧
    (s.pc.toNat % 2 = 0 ∧ 4096 ≤ s.pc.toNat + 1 →
      ∃ t, step s = .next t ∧ FaultTaken (.addressError .fetchOob s.pc.toNat) s.tick t)

/-- 30_encoding section 4, 60_exceptions section 2 (decisions D2, D18, D20, D23; log entries 3, 16, 20): a fetched word
that matches no row of the opcode table is DecodeError, naming the word and the address; the tick is kept. -/
def Obligations.IllegalWordHalts : Prop :=
  ∀ (s : State) (w : Word), s.mode = .run → Fetchable s.pc →
    joinBytes (Memory.read s.mem s.pc.toNat) (Memory.read s.mem (s.pc.toNat + 1)) = w → legalWord w = false →
    ∃ t, step s = .next t ∧ FaultTaken (.decodeError w) s.tick t

/-- 40_step_cycle section 1 (decisions D14, D18; log entries 3, 15): any number of steps taken in WAIT or HALT changes
nothing at all. -/
def Obligations.WaitAndHaltHoldStill : Prop :=
  ∀ (k : Nat) (s : State), s.mode ≠ .run → Sys2Proof.core.run k s = .next s

/-- 40_step_cycle section 1 and 45_timers_keypad (decision D20; log entry 16): every RUN-mode step counts each timer down
by one with its floor at zero, faulting steps included, except that `FX15` and `FX18` then set their timer. -/
def Obligations.EveryRunStepTicks : Prop :=
  ∀ s t : State, s.mode = .run → step s = .next t →
    (t.dt.toNat = s.dt.toNat - 1 ∨ ∃ x, Fetches s (.ldDTVx x) ∧ t.dt = s.reg x) ∧
    (t.st.toNat = s.st.toNat - 1 ∨ ∃ x, Fetches s (.ldSTVx x) ∧ t.st = s.reg x) ∧
    ((∀ x, ¬ Fetches s (.ldDTVx x)) → t.dt.toNat = s.dt.toNat - 1) ∧
    ((∀ x, ¬ Fetches s (.ldSTVx x)) → t.st.toNat = s.st.toNat - 1)

/-- 60_exceptions section 1 and 10_state section 5: with the stack pointer in its legal range a step always answers a
next state: every fault of the spec is a next state (log entry 3), and the model's one own stop (log entry 4) is out of
reach. -/
def Obligations.StepNeverStopsWithLegalStackPointer : Prop :=
  ∀ s : State, s.sp.toNat ≤ 16 → ∃ t, step s = .next t

/-- 40_step_cycle section 3 (decisions D14, D18): the transitions of MODE in a step, all of them. -/
def Obligations.ModeTransitionsOfAStep : Prop :=
  ∀ s t : State, step s = .next t →
    (s.mode ≠ .run → t.mode = s.mode) ∧
    (s.mode = .run →
      (t.mode = .run ∧ t.fault = s.fault) ∨
      (∃ x, Fetches s (.ldVxK x) ∧ t.mode = .wait x ∧ t.fault = s.fault) ∨
      (∃ c, FaultTaken c s.tick t))

/-! ### Encoding -/

/-- 30_encoding sections 1 to 3 (decision D1; log entry 5): decoding the encoded word of any instruction gives the
instruction back, with every operand at every value. -/
def Obligations.DecodeOfEncode : Prop :=
  ∀ i : Instr, decodeWord (encode i) = .ok i ∧ decodeBytes (encodeBytes i) = .ok (i, [])

/-- 30_encoding section 3 (decisions D1, D23; log entries 5, 20): the decoding procedure accepts exactly the words that
match a row of the opcode table. -/
def Obligations.DecoderAcceptsExactlyTheTable : Prop :=
  ∀ w : Word, (∃ i, decodeWord w = .ok i) ↔ legalWord w = true

/-- 30_encoding section 3 (decision D1; log entry 5): a decoded word is a word of the row of its instruction, and
encoding the instruction gives the word back; for SHR and SHL up to the ignored y field. -/
def Obligations.EncodeOfDecode : Prop :=
  ∀ (w : Word) (i : Instr), decodeWord w = .ok i →
    (rowOf i).accepts w = true ∧
    encode i = match i with
      | .shr _ | .shl _ => w &&& 0xFF0F
      | _ => w

/-- 30_encoding section 3 (decision D1; log entry 5): no word matches two rows of the opcode table. -/
def Obligations.TableRowsNeverOverlap : Prop :=
  ∀ (w : Word) (r q : Row), r ∈ opcodeRows → q ∈ opcodeRows → r.accepts w = true → q.accepts w = true → r = q

/-- R68: the y field of `8XY6` and `8XYE` is ignored, and `Vy` is neither read nor written; no other instruction has an
ignored field; the canonical spelling has y = 0. -/
def Obligations.ShiftsIgnoreTheYField : Prop :=
  (∀ x y : Reg, decodeWord (formatXYN 0x8 x y 0x6) = .ok (.shr x) ∧ decodeWord (formatXYN 0x8 x y 0xE) = .ok (.shl x)) ∧
  (∀ (x y : Reg) (b : Byte) (s : State), y ≠ x → y ≠ 15 →
    exec (.shr x) (s.setReg y b) = onNext (fun t => t.setReg y b) (exec (.shr x) s) ∧
    exec (.shl x) (s.setReg y b) = onNext (fun t => t.setReg y b) (exec (.shl x) s)) ∧
  (∀ (w w' : Word) (i : Instr), decodeWord w = .ok i → decodeWord w' = .ok i →
    w = w' ∨ ∃ x, i = .shr x ∨ i = .shl x) ∧
  (∀ x : Reg, encode (.shr x) = formatXYN 0x8 x 0 0x6 ∧ encode (.shl x) = formatXYN 0x8 x 0 0xE)

/-- Words of 30_encoding section 3 and of 95_test_vectors (decision D1; log entry 5), written out bit by bit, one or more
of every family. -/
def Obligations.SampleWordsDecode : Prop :=
  decodeWord 0b0000000011100000 = .ok .cls ∧
  decodeWord 0b0000000011101110 = .ok .ret ∧
  decodeWord 0b0010001100000000 = .ok (.call 0x300) ∧
  decodeWord 0b0011001100101010 = .ok (.seImm 3 0x2A) ∧
  decodeWord 0b1000000100100101 = .ok (.subReg 1 2) ∧
  decodeWord 0b1101000100100101 = .ok (.drw 1 2 5) ∧
  decodeWord 0b1110010110011110 = .ok (.skp 5) ∧
  decodeWord 0b1111001001010101 = .ok (.storeRegs 2) ∧
  decodeWord 0b1111001001100101 = .ok (.loadRegs 2) ∧
  decodeWord 0b0101000000000001 = .error .illegalFamily5

/-! ### Reset and the program image -/

/-- 70_reset_and_hazards section 1: the state after reset with the empty image. The values of `I`, the timers, `FB`,
`RD` and RAM are decision D16 and the font bytes D17 (log entries 1, 6). -/
def Obligations.ResetLeavesTheStatedValues : Prop :=
  (∀ r, State.reset.reg r = 0) ∧ State.reset.i = 0 ∧ State.reset.pc = 0x0200 ∧ State.reset.sp = 0 ∧
  (∀ k : Fin 16, State.reset.stack[k] = 0) ∧ State.reset.dt = 0 ∧ State.reset.st = 0 ∧
  (∀ k, State.reset.key k = false) ∧ (∀ y x, State.reset.fb.cell y x = false) ∧ State.reset.rd = false ∧
  State.reset.mode = .run ∧ State.reset.fault = none ∧
  Memory.readRange State.reset.mem 0x000 80 = font ∧
  (∀ a, 0x050 ≤ a → Memory.read State.reset.mem a = 0) ∧ resetWith [] = State.reset

/-- 20_memory section 1, 70_reset_and_hazards section 1 (decisions D16, D17, D25; log entries 1, 6, 17): an image of at
most 3584 bytes lands verbatim at 0x200; the font is below 0x050, every other byte is 0; all else is as after reset. -/
def Obligations.ImageIsLoadedVerbatim : Prop :=
  ∀ img : List Byte, imageFits img = true →
    (∀ (k : Nat) (h : k < img.length), Memory.read (resetWith img).mem (0x200 + k) = img[k]) ∧
    (∀ a, (a < 0x200 ∨ 0x200 + img.length ≤ a) → Memory.read (resetWith img).mem a = Memory.read State.reset.mem a) ∧
    { resetWith img with mem := State.reset.mem } = State.reset

/-- R208: an image longer than 3584 bytes, and only such an image, is LoadError: the CORE is in HALT from the outset and
executes nothing. -/
def Obligations.OversizeImageIsLoadError : Prop :=
  ∀ img : List Byte,
    (3584 < img.length →
      (resetWith img).mode = .halt ∧ (∃ n p, (resetWith img).fault = some ⟨.loadError n, p⟩) ∧
      ∀ k, Sys2Proof.core.run k (resetWith img) = .next (resetWith img)) ∧
    (img.length ≤ 3584 → (resetWith img).mode = .run ∧ (resetWith img).fault = none)

/-! ### Invariants -/

/-- 10_state section 13 (log entry 28): the invariant holds right after reset. -/
def Obligations.ResetMeetsTheInvariant : Prop := State.reset.Inv

/-- 10_state section 13 (log entry 28): every step keeps the invariant: memory stays in its canonical form and only RAM is
written, sp ≤ 16, live stack entries are addresses an instruction was fetched from, pc ≤ 0x10FE, a fault is recorded
exactly in HALT and names the pc. -/
def Obligations.StepKeepsTheInvariant : Prop :=
  ∀ s t : State, s.Inv → step s = .next t → t.Inv

/-- 10_state section 13 and 60_exceptions section 7 (log entries 21, 28): every sequence of host actions (reset with any
image, steps, key events, frames taken) keeps the invariant, and none of them stops the model. -/
def Obligations.HostActionsKeepTheInvariant : Prop :=
  ∀ (es : List Event) (s : State), s.Inv → ∃ t, actAll es s = .next t ∧ t.Inv

/-- 20_memory section 2 (decisions D6, D17; log entry 13): no step changes a byte of the font, from any state. -/
def Obligations.StepNeverChangesTheFont : Prop :=
  ∀ s t : State, step s = .next t → ∀ a, a < 0x050 → Memory.read t.mem a = Memory.read s.mem a

/-- The tables of 10_state sections 1, 3, 5, 6, 9 and 20_memory section 2 (log entry 9 for the order of writes, log entry 2
for the random draws): what an instruction does not own, it leaves unchanged, whatever it answers as a next state. -/
def Obligations.InstructionsWriteOnlyWhatTheyOwn : Prop :=
  ∀ (i : Instr) (s t : State), exec i s = .next t →
    (∀ r, mayWriteReg i r = false → t.reg r = s.reg r) ∧
    (mayWriteIndex i = false → t.i = s.i) ∧
    (mayWriteMemory i = false → SameMemory s t) ∧
    (mayWriteScreen i = false → SameScreen s t) ∧
    (usesStack i = false → SameStack s t) ∧
    ((∀ x, i ≠ .ldDTVx x) → t.dt = s.dt) ∧ ((∀ x, i ≠ .ldSTVx x) → t.st = s.st) ∧
    t.keys = s.keys ∧ ((∀ x nn, i ≠ .rnd x nn) → t.draws = s.draws)

/-! ### Control flow -/

/-- R102: the jump goes to `nnn` unchecked; an odd target makes the next step raise fetch_misaligned, and an even one can
be fetched from, wherever it lies. -/
def Obligations.JumpGoesToItsAddress : Prop :=
  ∀ (nnn : Addr12) (s : State), ∃ t, exec (.jp nnn) s = .next t ∧ t.pc.toNat = nnn.toNat ∧ OnlyPc s t ∧
    (nnn.toNat % 2 = 0 → Fetchable t.pc) ∧
    (s.mode = .run → nnn.toNat % 2 = 1 →
      ∃ u, step t = .next u ∧ FaultTaken (.addressError .fetchMisaligned nnn.toNat) t.tick u)

/-- R104: the target is `nnn + V0`, not reduced to 12 bits; one past memory, or odd, faults at the next step. -/
def Obligations.JumpWithOffsetAddsV0 : Prop :=
  ∀ (nnn : Addr12) (s : State), ∃ t, exec (.jpV0 nnn) s = .next t ∧ t.pc.toNat = nnn.toNat + (s.reg 0).toNat ∧
    OnlyPc s t ∧
    (s.mode = .run → t.pc.toNat % 2 = 1 →
      ∃ u, step t = .next u ∧ FaultTaken (.addressError .fetchMisaligned t.pc.toNat) t.tick u) ∧
    (s.mode = .run → t.pc.toNat % 2 = 0 → 0x1000 ≤ t.pc.toNat →
      ∃ u, step t = .next u ∧ FaultTaken (.addressError .fetchOob t.pc.toNat) t.tick u)

/-- 41_control_flow, CALL (decision D7; log entry 18): with a free slot the call pushes its own address, counts it, and
goes to `nnn`; every other slot and the rest of the state are unchanged. -/
def Obligations.CallPushesItsOwnAddress : Prop :=
  ∀ (nnn : Addr12) (s : State), s.sp.toNat < 16 →
    ∃ t, exec (.call nnn) s = .next t ∧ t.sp.toNat = s.sp.toNat + 1 ∧ t.pc.toNat = nnn.toNat ∧
      (∀ k : Fin 16, t.stack[k] = if k.val = s.sp.toNat then s.pc else s.stack[k]) ∧
      SameRegsBut [] s t ∧ t.i = s.i ∧ SameMemory s t ∧ SameTimers s t ∧ SameScreen s t ∧ SameControl s t

/-- 41_control_flow, RET (decision D7; log entry 18): with 1 to 16 entries the return takes the newest one, goes 2 past it
and keeps every slot's value. -/
def Obligations.ReturnResumesAfterTheCall : Prop :=
  ∀ s : State, 0 < s.sp.toNat → s.sp.toNat ≤ 16 →
    ∃ t, exec .ret s = .next t ∧ t.sp.toNat = s.sp.toNat - 1 ∧
      (∀ k : Fin 16, k.val = s.sp.toNat - 1 → t.pc = s.stack[k] + 2) ∧ t.stack = s.stack ∧
      SameRegsBut [] s t ∧ t.i = s.i ∧ SameMemory s t ∧ SameTimers s t ∧ SameScreen s t ∧ SameControl s t

/-- R206: a call with sp = 16 is StackError overflow, a return with sp = 0 is StackError underflow; `S`, `sp` and `pc` are
unchanged, and the CORE halts. -/
def Obligations.StackErrorsHalt : Prop :=
  ∀ s : State,
    (s.sp = 16 → ∀ nnn, ∃ t, exec (.call nnn) s = .next t ∧ FaultTaken (.stackError .overflow) s t) ∧
    (s.sp = 0 → ∃ t, exec .ret s = .next t ∧ FaultTaken (.stackError .underflow) s t)

/-- 41_control_flow, properties of the family (the spec's own derivation from its rules; decision D7, log entry 18): a
call of an even address where a return stands, then that return: two steps lead to the address after the call with the
stack pointer as before, for every fetchable pc and every depth below 16. -/
def Obligations.CallThenReturnRoundTrip : Prop :=
  ∀ (s : State) (nnn : Addr12), s.mode = .run → s.sp.toNat < 16 → Fetches s (.call nnn) → nnn.toNat % 2 = 0 →
    Memory.read s.mem nnn.toNat = 0x00 → Memory.read s.mem (nnn.toNat + 1) = 0xEE →
    ∃ t u, step s = .next t ∧ step t = .next u ∧ u.pc.toNat = s.pc.toNat + 2 ∧ u.sp = s.sp ∧
      (∀ k : Fin 16, k.val = s.sp.toNat → u.stack[k] = s.pc) ∧
      u.dt.toNat = s.dt.toNat - 2 ∧ u.st.toNat = s.st.toNat - 2

/-- R105, R106: the skips against an immediate advance pc by 4 when their condition holds and by 2 when it does not, for
all registers and immediates. -/
def Obligations.ImmediateSkips : Prop :=
  ∀ (x : Reg) (nn : Byte) (s : State),
    (∃ t, exec (.seImm x nn) s = .next t ∧ t.pc = (if s.reg x = nn then s.pc + 4 else s.pc + 2) ∧ OnlyPc s t) ∧
    (∃ t, exec (.sneImm x nn) s = .next t ∧ t.pc = (if s.reg x ≠ nn then s.pc + 4 else s.pc + 2) ∧ OnlyPc s t)

/-- R107, R108: the skips between registers; with x = y the first always skips and the second never; a nonzero low
nibble is illegal. -/
def Obligations.RegisterSkips : Prop :=
  ∀ (x y : Reg) (s : State),
    (∃ t, exec (.seReg x y) s = .next t ∧ t.pc = (if s.reg x = s.reg y then s.pc + 4 else s.pc + 2) ∧ OnlyPc s t) ∧
    (∃ t, exec (.sneReg x y) s = .next t ∧ t.pc = (if s.reg x ≠ s.reg y then s.pc + 4 else s.pc + 2) ∧ OnlyPc s t) ∧
    (∃ t, exec (.seReg x x) s = .next t ∧ t.pc = s.pc + 4) ∧ (∃ t, exec (.sneReg x x) s = .next t ∧ t.pc = s.pc + 2) ∧
    (∀ n : Nibble, n ≠ 0 → decodeWord (formatXYN 0x5 x y n) = .error .illegalFamily5 ∧
      decodeWord (formatXYN 0x9 x y n) = .error .illegalFamily9)

/-! ### Register load, arithmetic, logic, shift, random -/

/-- R120: for all registers, VF included, `Vx` receives `nn` and pc advances by 2. -/
def Obligations.LoadImmediateSetsRegister : Prop :=
  ∀ (x : Reg) (nn : Byte) (s : State), ∃ t, exec (.ldImm x nn) s = .next t ∧ t.reg x = nn ∧ t.pc = s.pc + 2 ∧
    OnlyRegsPc [x] s t

/-- R121: the sum wraps at 256 and no carry flag is touched: `VF` changes only as the destination. -/
def Obligations.AddImmediateWrapsWithoutFlag : Prop :=
  ∀ (x : Reg) (nn : Byte) (s : State), ∃ t, exec (.addImm x nn) s = .next t ∧
    (t.reg x).toNat = ((s.reg x).toNat + nn.toNat) % 256 ∧ t.pc = s.pc + 2 ∧ OnlyRegsPc [x] s t

/-- R122, R123, R124, R125: copy, OR, AND, XOR, bit by bit; `VF` is left alone unless it is the destination. -/
def Obligations.CopyAndLogicLeaveTheFlag : Prop :=
  ∀ (x y : Reg) (s : State),
    (∃ t, exec (.ldReg x y) s = .next t ∧ t.reg x = s.reg y ∧ t.pc = s.pc + 2 ∧ OnlyRegsPc [x] s t) ∧
    (∃ t, exec (.orReg x y) s = .next t ∧
      (∀ k, (t.reg x).getLsbD k = ((s.reg x).getLsbD k || (s.reg y).getLsbD k)) ∧ t.pc = s.pc + 2 ∧ OnlyRegsPc [x] s t) ∧
    (∃ t, exec (.andReg x y) s = .next t ∧
      (∀ k, (t.reg x).getLsbD k = ((s.reg x).getLsbD k && (s.reg y).getLsbD k)) ∧ t.pc = s.pc + 2 ∧ OnlyRegsPc [x] s t) ∧
    (∃ t, exec (.xorReg x y) s = .next t ∧
      (∀ k, (t.reg x).getLsbD k = ((s.reg x).getLsbD k ^^ (s.reg y).getLsbD k)) ∧ t.pc = s.pc + 2 ∧ OnlyRegsPc [x] s t)

/-- 42_alu, register-register arithmetic with flag: ADD. The operands are read first and the flag is written last, so
with x = 15 the flag remains (decision D3; log entry 9). -/
def Obligations.AddSetsCarry : Prop :=
  ∀ (x y : Reg) (s : State), ∃ t, exec (.addReg x y) s = .next t ∧
    (x ≠ 15 → (t.reg x).toNat = ((s.reg x).toNat + (s.reg y).toNat) % 256) ∧
    t.reg 15 = flagByte (255 < (s.reg x).toNat + (s.reg y).toNat) ∧ t.pc = s.pc + 2 ∧ OnlyRegsPc [x, 15] s t

/-- 42_alu, register-register arithmetic with flag: SUB and SUBN. The flag is 1 exactly when the minuend is strictly
greater (decision D3 for the order of reads and writes; log entry 9). -/
def Obligations.SubtractsSetStrictlyGreater : Prop :=
  ∀ (x y : Reg) (s : State),
    (∃ t, exec (.subReg x y) s = .next t ∧
      (x ≠ 15 → (t.reg x).toNat = ((s.reg x).toNat + 256 - (s.reg y).toNat) % 256) ∧
      t.reg 15 = flagByte ((s.reg y).toNat < (s.reg x).toNat) ∧ t.pc = s.pc + 2 ∧ OnlyRegsPc [x, 15] s t) ∧
    (∃ t, exec (.subnReg x y) s = .next t ∧
      (x ≠ 15 → (t.reg x).toNat = ((s.reg y).toNat + 256 - (s.reg x).toNat) % 256) ∧
      t.reg 15 = flagByte ((s.reg x).toNat < (s.reg y).toNat) ∧ t.pc = s.pc + 2 ∧ OnlyRegsPc [x, 15] s t)

/-- 42_alu, shifts: in place by one, the bit shifted out in `VF`, written last (decision D3; log entry 9). -/
def Obligations.ShiftsPutTheLostBitInTheFlag : Prop :=
  ∀ (x : Reg) (s : State),
    (∃ t, exec (.shr x) s = .next t ∧ (x ≠ 15 → (t.reg x).toNat = (s.reg x).toNat / 2) ∧
      t.reg 15 = flagByte ((s.reg x).toNat % 2 = 1) ∧ t.pc = s.pc + 2 ∧ OnlyRegsPc [x, 15] s t) ∧
    (∃ t, exec (.shl x) s = .next t ∧ (x ≠ 15 → (t.reg x).toNat = (s.reg x).toNat * 2 % 256) ∧
      t.reg 15 = flagByte (128 ≤ (s.reg x).toNat) ∧ t.pc = s.pc + 2 ∧ OnlyRegsPc [x, 15] s t)

/-- 42_alu, random (decision D15; log entry 2): `Vx` receives the byte drawn, masked with `nn`; one draw is used up.
It holds whatever the bytes are: nothing is known of them but the mask. -/
def Obligations.RandomIsMasked : Prop :=
  ∀ (x : Reg) (nn : Byte) (s : State), ∃ t, exec (.rnd x nn) s = .next t ∧
    t.reg x = Config.randomByte s.draws &&& nn ∧ (∀ k, nn.getLsbD k = false → (t.reg x).getLsbD k = false) ∧
    t.draws = s.draws + 1 ∧ t.pc = s.pc + 2 ∧ OnlyRegsPc [x] s t

/-! ### The index register and memory -/

/-- R140: `I` receives `nnn`, zero-extended. -/
def Obligations.SetIndexZeroExtends : Prop :=
  ∀ (nnn : Addr12) (s : State), ∃ t, exec (.ldI nnn) s = .next t ∧ t.i.toNat = nnn.toNat ∧ t.pc = s.pc + 2 ∧
    OnlyRegsIndexPc [] s t

/-- 43_index_memory, setting and moving the index: `FX1E` (decisions D3, D11, D12; log entries 9, 10): `I` keeps 16 bits of
the sum, `VF` is 1 exactly when the unreduced sum is past 0xFFF, else 0, also with x = 15. -/
def Obligations.AddToIndexFlagsTwelveBitOverflow : Prop :=
  ∀ (x : Reg) (s : State), ∃ t, exec (.addIVx x) s = .next t ∧
    t.i.toNat = (s.i.toNat + (s.reg x).toNat) % 65536 ∧
    t.reg 15 = flagByte (0x0FFF < s.i.toNat + (s.reg x).toNat) ∧ t.pc = s.pc + 2 ∧ OnlyRegsIndexPc [15] s t

/-- 43_index_memory, setting and moving the index: `FX29` (decision D12; log entry 10): five times all eight bits of
`Vx`, unmasked. -/
def Obligations.GlyphAddressIsFiveTimesTheRegister : Prop :=
  ∀ (x : Reg) (s : State), ∃ t, exec (.ldF x) s = .next t ∧ t.i.toNat = (s.reg x).toNat * 5 ∧ t.pc = s.pc + 2 ∧
    OnlyRegsIndexPc [] s t

/-- 43_index_memory, stores: `FX33` (decisions D4, D6; log entries 11, 13): hundreds, tens and ones at I, I+1, I+2, and
nothing else. The premise on memory is the canonical form, which every step keeps. -/
def Obligations.BcdStoresThreeDigits : Prop :=
  ∀ (x : Reg) (s : State), Memory.wf s.mem = true → 0x050 ≤ s.i.toNat → s.i.toNat + 2 ≤ 0xFFF →
    ∃ t, exec (.ldB x) s = .next t ∧
      (Memory.read t.mem s.i.toNat).toNat = (s.reg x).toNat / 100 ∧
      (Memory.read t.mem (s.i.toNat + 1)).toNat = (s.reg x).toNat / 10 % 10 ∧
      (Memory.read t.mem (s.i.toNat + 2)).toNat = (s.reg x).toNat % 10 ∧
      SameMemoryBut s.i.toNat 3 s t ∧ t.pc = s.pc + 2 ∧ t.i = s.i ∧
      SameRegsBut [] s t ∧ SameStack s t ∧ SameTimers s t ∧ SameScreen s t ∧ SameControl s t

/-- 43_index_memory, stores: `FX55` (decisions D4, D6; log entries 11, 13): V0..Vx inclusive at I.., I past the last. -/
def Obligations.StoreRegistersInclusive : Prop :=
  ∀ (x : Reg) (s : State), Memory.wf s.mem = true → 0x050 ≤ s.i.toNat → s.i.toNat + x.val ≤ 0xFFF →
    ∃ t, exec (.storeRegs x) s = .next t ∧
      (∀ k : Reg, k ≤ x → Memory.read t.mem (s.i.toNat + k.val) = s.reg k) ∧
      SameMemoryBut s.i.toNat (x.val + 1) s t ∧ t.i.toNat = s.i.toNat + x.val + 1 ∧ t.pc = s.pc + 2 ∧
      SameRegsBut [] s t ∧ SameStack s t ∧ SameTimers s t ∧ SameScreen s t ∧ SameControl s t

/-- 43_index_memory, load: `FX65` (decisions D4, D10; log entries 11, 23): V0..Vx inclusive from I.., I past the last; the
registers above `Vx` keep their values. -/
def Obligations.LoadRegistersInclusive : Prop :=
  ∀ (x : Reg) (s : State), s.i.toNat + x.val ≤ 0xFFF →
    ∃ t, exec (.loadRegs x) s = .next t ∧
      (∀ k : Reg, t.reg k = if k ≤ x then Memory.read s.mem (s.i.toNat + k.val) else s.reg k) ∧
      t.i.toNat = s.i.toNat + x.val + 1 ∧ t.pc = s.pc + 2 ∧
      SameMemory s t ∧ SameStack s t ∧ SameTimers s t ∧ SameScreen s t ∧ SameControl s t

/-- 43_index_memory section "Properties of the family", 44_display and 60_exceptions section 1 (decisions D4, D6, D12; log
entries 11, 13): where an address does not exist or may not be written, nothing is changed but the fault taken, which
reports the lowest offending address. -/
def Obligations.BadAddressesHaltWithNothingDone : Prop :=
  ∀ s : State,
    (∀ x, (s.i.toNat < 0x050 → ∃ t, exec (.ldB x) s = .next t ∧
        FaultTaken (.addressError .fontWrite s.i.toNat) s t) ∧
      (0xFFF < s.i.toNat + 2 → ∃ t, exec (.ldB x) s = .next t ∧
        FaultTaken (.addressError .dataOob (max s.i.toNat 0x1000)) s t)) ∧
    (∀ x : Reg, (s.i.toNat < 0x050 → ∃ t, exec (.storeRegs x) s = .next t ∧
        FaultTaken (.addressError .fontWrite s.i.toNat) s t) ∧
      (0xFFF < s.i.toNat + x.val → ∃ t, exec (.storeRegs x) s = .next t ∧
        FaultTaken (.addressError .dataOob (max s.i.toNat 0x1000)) s t)) ∧
    (∀ x : Reg, 0xFFF < s.i.toNat + x.val → ∃ t, exec (.loadRegs x) s = .next t ∧
        FaultTaken (.addressError .dataOob (max s.i.toNat 0x1000)) s t) ∧
    (∀ (x y : Reg) (n : Nibble), 1 ≤ n.toNat → 0xFFF < s.i.toNat + n.toNat - 1 → ∃ t, exec (.drw x y n) s = .next t ∧
        FaultTaken (.addressError .dataOob (max s.i.toNat 0x1000)) s t)

/-- 43_index_memory, properties of the family (the spec's own derivation from its rules): FX55, ANNN back to the same
base, FX65 with the same x leave V0..Vx as they were, their values in memory, and I past the block. -/
def Obligations.StoreThenLoadRoundTrip : Prop :=
  ∀ (x : Reg) (nnn : Addr12) (s : State), Memory.wf s.mem = true → s.i.toNat = nnn.toNat → 0x050 ≤ nnn.toNat →
    nnn.toNat + x.val ≤ 0xFFF →
    ∃ t u w, exec (.storeRegs x) s = .next t ∧ exec (.ldI nnn) t = .next u ∧ exec (.loadRegs x) u = .next w ∧
      (∀ k, w.reg k = s.reg k) ∧ (∀ k : Reg, k ≤ x → Memory.read w.mem (nnn.toNat + k.val) = s.reg k) ∧
      w.i.toNat = nnn.toNat + x.val + 1 ∧ w.pc = s.pc + 6

/-- 10_state section 8 and 20_memory section 2 (log entry 22): two memories in the canonical form that read the same at
every address are equal, so equal memories are equal data. -/
def Obligations.CanonicalMemoriesAreTheirReads : Prop :=
  ∀ m m' : Memory, Memory.wf m = true → Memory.wf m' = true → (∀ a, Memory.read m a = Memory.read m' a) → m = m'

/-! ### The display -/

/-- R160: every cell is cleared and the redraw flag is set, also on a clear screen; `VF` is not written. -/
def Obligations.ClearScreenClearsEveryCell : Prop :=
  ∀ s : State, ∃ t, exec .cls s = .next t ∧ (∀ y x, t.fb.cell y x = false) ∧ t.rd = true ∧ t.pc = s.pc + 2 ∧
    SameRegsBut [] s t ∧ t.i = s.i ∧ SameMemory s t ∧ SameStack s t ∧ SameTimers s t ∧ SameControl s t

/-- 44_display, DRW (decisions D3, D8, D9, D27; log entries 7, 8, 9, 19): the cells that change are exactly those under a 1
bit of the sprite, bit 7 leftmost, each coordinate wrapped; the redraw flag is set; only `VF` of the registers may
change. The coordinates are the registers' values before the instruction. -/
def Obligations.DrawTogglesTheCellsUnderTheSprite : Prop :=
  ∀ (vx vy : Reg) (n : Nibble) (s : State), (n = 0 ∨ s.i.toNat + n.toNat - 1 ≤ 0xFFF) →
    ∃ t, exec (.drw vx vy n) s = .next t ∧
      (∀ (y : Fin 32) (x : Fin 64), t.fb.cell y x ≠ s.fb.cell y x ↔
        ∃ r c : Nat, r < n.toNat ∧ c < 8 ∧ (Memory.read s.mem (s.i.toNat + r)).getLsbD (7 - c) = true ∧
          x.val = ((s.reg vx).toNat + c) % 64 ∧ y.val = ((s.reg vy).toNat + r) % 32) ∧
      t.rd = true ∧ t.pc = s.pc + 2 ∧ SameRegsBut [15] s t ∧ t.i = s.i ∧ SameMemory s t ∧ SameStack s t ∧
      SameTimers s t ∧ SameControl s t

/-- R164: `VF` is 1 when, and only when, some cell goes from set to clear, else 0. -/
def Obligations.CollisionIsASetCellTurnedOff : Prop :=
  ∀ (vx vy : Reg) (n : Nibble) (s : State), (n = 0 ∨ s.i.toNat + n.toNat - 1 ≤ 0xFFF) →
    ∃ t, exec (.drw vx vy n) s = .next t ∧
      (t.reg 15 = 1 ↔ ∃ y x, s.fb.cell y x = true ∧ t.fb.cell y x = false) ∧ (t.reg 15 = 1 ∨ t.reg 15 = 0)

/-- 44_display, DRW (the spec's own derivation from its rules; decision D8, log entry 8): the same sprite drawn twice at
the same place restores the framebuffer, and the second draw reports a collision exactly when the first one set a cell. -/
def Obligations.DrawingTwiceRestoresTheScreen : Prop :=
  ∀ (vx vy : Reg) (n : Nibble) (s : State), (n = 0 ∨ s.i.toNat + n.toNat - 1 ≤ 0xFFF) →
    ∃ t, exec (.drw vx vy n) s = .next t ∧ (t.reg vx = s.reg vx → t.reg vy = s.reg vy →
      ∃ u, exec (.drw vx vy n) t = .next u ∧ u.fb = s.fb ∧
        (u.reg 15 = 1 ↔ ∃ y x, s.fb.cell y x = false ∧ t.fb.cell y x = true))

/-! ### Timers, keypad, host -/

/-- 45_timers_keypad, key-conditional skips (decision D13; log entry 14): with `Vx` at most 15 the skips test the level of
that key. -/
def Obligations.KeySkipsTestTheLevel : Prop :=
  ∀ (x : Reg) (s : State) (k : Key), (s.reg x).toNat = k.val →
    (∃ t, exec (.skp x) s = .next t ∧ t.pc = (if s.key k = true then s.pc + 4 else s.pc + 2) ∧ OnlyPc s t) ∧
    (∃ t, exec (.sknp x) s = .next t ∧ t.pc = (if s.key k = false then s.pc + 4 else s.pc + 2) ∧ OnlyPc s t)

/-- 45_timers_keypad, key-conditional skips (decision D13; log entry 14): a `Vx` above 15 is AddressError key_index. -/
def Obligations.KeyNumberAboveFifteenHalts : Prop :=
  ∀ (x : Reg) (s : State), 15 < (s.reg x).toNat →
    (∃ t, exec (.skp x) s = .next t ∧ FaultTaken (.addressError .keyIndex (s.reg x).toNat) s t) ∧
    (∃ t, exec (.sknp x) s = .next t ∧ FaultTaken (.addressError .keyIndex (s.reg x).toNat) s t)

/-- R172: `Vx` receives the delay timer; in a step, the value after the step's tick. -/
def Obligations.DelayTimerReadAfterTheTick : Prop :=
  ∀ (x : Reg) (s : State),
    (∃ t, exec (.ldVxDT x) s = .next t ∧ t.reg x = s.dt ∧ t.pc = s.pc + 2 ∧ OnlyRegsPc [x] s t) ∧
    (s.mode = .run → Fetches s (.ldVxDT x) →
      ∃ t, step s = .next t ∧ (t.reg x).toNat = s.dt.toNat - 1 ∧ t.dt = t.reg x)

/-- R173: `DT` receives `Vx`, whatever the tick left; the first decrement is in the next RUN-mode step. -/
def Obligations.DelayTimerSetAfterTheTick : Prop :=
  ∀ (x : Reg) (s : State),
    (∃ t, exec (.ldDTVx x) s = .next t ∧ t.dt = s.reg x ∧ t.pc = s.pc + 2 ∧ t.st = s.st ∧
      SameRegsBut [] s t ∧ t.i = s.i ∧ SameMemory s t ∧ SameStack s t ∧ SameScreen s t ∧ SameControl s t) ∧
    (s.mode = .run → Fetches s (.ldDTVx x) →
      ∃ t, step s = .next t ∧ t.dt = s.reg x ∧
        ∀ u, step t = .next u → (∀ z, ¬ Fetches t (.ldDTVx z)) → u.dt.toNat = (s.reg x).toNat - 1)

/-- R174: `ST` receives `Vx`, the host reads it and takes nonzero as audible, and no instruction reads it back: with
another value of `ST` every other instruction answers the same but for `ST`. -/
def Obligations.SoundTimerIsWriteOnly : Prop :=
  (∀ (x : Reg) (s : State), ∃ t, exec (.ldSTVx x) s = .next t ∧ t.st = s.reg x ∧ t.pc = s.pc + 2 ∧ t.dt = s.dt ∧
    soundTimer t = s.reg x ∧ (audible t = true ↔ s.reg x ≠ 0) ∧
    SameRegsBut [] s t ∧ t.i = s.i ∧ SameMemory s t ∧ SameStack s t ∧ SameScreen s t ∧ SameControl s t) ∧
  (∀ (i : Instr) (s : State) (b : Byte), (∀ x, i ≠ .ldSTVx x) →
    exec i { s with st := b } = onNext (fun t => { t with st := b }) (exec i s))

/-- 45_timers_keypad, await key press (decision D14; log entry 15): `FX0A` only enters WAIT for its register; pc and all
else stay, whatever keys are down. -/
def Obligations.AwaitKeyEntersWait : Prop :=
  ∀ (x : Reg) (s : State), ∃ t, exec (.ldVxK x) s = .next t ∧ t.mode = .wait x ∧ OnlyPc { s with mode := t.mode } t ∧
    t.pc = s.pc

/-- 45_timers_keypad, await key press, and 60_exceptions section 7 (decision D14; log entry 15): a new key-down completes
the wait in one transition, with no tick; every other key event changes the key table only. -/
def Obligations.KeyDownCompletesTheWait : Prop :=
  ∀ (k : Key) (p : Bool) (s : State),
    (∀ q, (setKey k p s).key q = if q = k then p else s.key q) ∧
    (∀ r, s.mode = .wait r → p = true → s.key k = false →
      ((setKey k p s).reg r).toNat = k.val ∧ (setKey k p s).pc = s.pc + 2 ∧ (setKey k p s).mode = .run ∧
        OnlyRegsPc [r] { s with mode := .run, keys := (setKey k p s).keys } (setKey k p s)) ∧
    (((∀ r, s.mode ≠ .wait r) ∨ p = false ∨ s.key k = true) →
      { setKey k p s with keys := s.keys } = s)

/-- R177: the timer and keypad instructions touch neither memory, `I`, the stack, the framebuffer nor `RD`, none writes
`VF` as a flag (only FX07 with x = 15 writes it, as data); and no instruction at all writes the key table. -/
def Obligations.TimerAndKeypadInstructionsTouchNothingElse : Prop :=
  (∀ (x : Reg) (i : Instr) (s t : State),
    i ∈ [Instr.skp x, .sknp x, .ldVxDT x, .ldDTVx x, .ldSTVx x, .ldVxK x] → exec i s = .next t →
      SameMemory s t ∧ t.i = s.i ∧ SameStack s t ∧ SameScreen s t ∧ (i ≠ .ldVxDT 15 → t.reg 15 = s.reg 15)) ∧
  (∀ (i : Instr) (s t : State), exec i s = .next t → t.keys = s.keys)

/-- R87: taking the frame is the host's action; a step never clears `RD`. -/
def Obligations.StepNeverClearsTheRedrawFlag : Prop :=
  (∀ s t : State, step s = .next t → s.rd = true → t.rd = true) ∧ (∀ s : State, (takeFrame s).2.rd = false)

/-- R225: `takeFrame()` returns cell (x, y) at index y*64 + x and clears `RD`, whether or not it was set; nothing else
changes. -/
def Obligations.TakeFrameReturnsTheGrid : Prop :=
  ∀ s : State,
    (∀ (y : Fin 32) (x : Fin 64), (takeFrame s).1[y.val * 64 + x.val]'(by omega) = s.fb.cell y x) ∧
    (takeFrame s).2.rd = false ∧ { (takeFrame s).2 with rd := s.rd } = s

/-- 60_exceptions section 2 (decision D18; log entry 3): no sequence of host actions without a reset leaves HALT, changes
the fault record, or runs anything. -/
def Obligations.HaltIsFinalUntilReset : Prop :=
  ∀ (es : List Event) (s : State), s.mode = .halt → (∀ img, Event.reset img ∉ es) →
    ∃ t, actAll es s = .next t ∧ t.mode = .halt ∧ t.fault = s.fault ∧ t.pc = s.pc ∧ SameRegsBut [] s t ∧ t.i = s.i ∧
      SameMemory s t ∧ SameStack s t ∧ SameTimers s t ∧ t.fb = s.fb
end

