-- ==== Sys2Proof/Laws/Memory.lean ====
section
/-! SUPPORT. The laws of memory: what a read gives after a write, and that every write keeps the canonical form. -/

namespace Sys2Proof.Machine

/-- Above the font an unlisted address reads as 0 (R41). -/
theorem unlistedByte_of_le {a : Nat} (h : Config.fontEnd ≤ a) : unlistedByte a = 0 := by
  have hlen : font.length ≤ a := h
  simp [unlistedByte, List.getD, List.getElem?_eq_none hlen]

/-! ### Reads after writes -/

theorem Memory.read_consCell (a a' : Nat) (b : Byte) (m : Memory) (h : b = unlistedByte a → Memory.read m a = b) :
    Memory.read (Memory.consCell a b m) a' = if a' = a then b else Memory.read m a' := by
  unfold Memory.consCell
  split
  · next hb =>
    split
    · next e => rw [e, h hb]
    · rfl
  · rfl

/-- Below the first listed address, a memory in the canonical form lists nothing. -/
theorem Memory.read_of_lt {lo a : Nat} {m : Memory} (hm : Memory.wfFrom lo m = true) (h : a < lo) :
    Memory.read m a = unlistedByte a := by
  induction m generalizing lo with
  | nil => rfl
  | cons c m ih =>
    obtain ⟨k, b⟩ := c
    simp only [Memory.wfFrom, Bool.and_eq_true, decide_eq_true_eq] at hm
    have hk : a ≠ k := by omega
    simp only [Memory.read, hk, if_false]
    exact ih hm.2 (by omega)

theorem Memory.wfFrom_mono {lo lo' : Nat} {m : Memory} (hm : Memory.wfFrom lo m = true) (h : lo' ≤ lo) :
    Memory.wfFrom lo' m = true := by
  cases m with
  | nil => rfl
  | cons c m =>
    simp only [Memory.wfFrom, Bool.and_eq_true, decide_eq_true_eq] at hm ⊢
    exact ⟨⟨by omega, hm.1.2⟩, hm.2⟩

/-- A read after a write: the byte written at its address, every other address as before. -/
theorem Memory.read_write_of_wfFrom {lo : Nat} {m : Memory} (hm : Memory.wfFrom lo m = true) (a : Nat) (b : Byte)
    (a' : Nat) : Memory.read (Memory.write m a b) a' = if a' = a then b else Memory.read m a' := by
  induction m generalizing lo with
  | nil => exact Memory.read_consCell a a' b [] (fun h => h.symm)
  | cons c m ih =>
    obtain ⟨k, d⟩ := c
    simp only [Memory.wfFrom, Bool.and_eq_true, decide_eq_true_eq] at hm
    unfold Memory.write
    split
    · next hlt =>
      refine Memory.read_consCell a a' b _ (fun h => ?_)
      have hk : a ≠ k := by omega
      simp only [Memory.read, hk, if_false]
      rw [Memory.read_of_lt hm.2 (by omega), h]
    · split
      · next hlt heq =>
        subst heq
        rw [Memory.read_consCell a a' b m (fun h => by rw [Memory.read_of_lt hm.2 (by omega), h])]
        simp only [Memory.read]
        split <;> rfl
      · next hlt hne =>
        have := ih hm.2
        simp only [Memory.read, this]
        split
        · next e => rw [if_neg (by omega)]
        · rfl

theorem Memory.read_write {m : Memory} (hm : Memory.wf m = true) (a : Nat) (b : Byte) (a' : Nat) :
    Memory.read (Memory.write m a b) a' = if a' = a then b else Memory.read m a' :=
  Memory.read_write_of_wfFrom hm a b a'

/-- A write leaves every other address as it was, whatever the form of the list. -/
theorem Memory.read_write_of_ne (m : Memory) {a a' : Nat} (b : Byte) (h : a' ≠ a) :
    Memory.read (Memory.write m a b) a' = Memory.read m a' := by
  have hc : ∀ m', Memory.read (Memory.consCell a b m') a' = Memory.read m' a' := fun m' => by
    unfold Memory.consCell
    split
    · rfl
    · simp only [Memory.read, if_neg h]
  induction m with
  | nil => exact hc []
  | cons c m ih =>
    obtain ⟨k, d⟩ := c
    unfold Memory.write
    split
    · exact hc _
    · split
      · next heq =>
        subst heq
        simp only [hc, Memory.read, if_neg h]
      · simp only [Memory.read, ih]

/-- A write of several bytes leaves every address outside the block as it was. -/
theorem Memory.read_writeRange_of_outside (m : Memory) {a a' : Nat} {bs : List Byte} (h : a' < a ∨ a + bs.length ≤ a') :
    Memory.read (Memory.writeRange m a bs) a' = Memory.read m a' := by
  induction bs generalizing m a with
  | nil => rfl
  | cons b bs ih =>
    simp only [List.length_cons] at h
    have hne : a' ≠ a := by omega
    simp only [Memory.writeRange]
    rw [ih _ (by omega), Memory.read_write_of_ne m b hne]

/-! ### The canonical form is kept -/

theorem Memory.wfFrom_consCell {lo a : Nat} (b : Byte) {m : Memory} (h : lo ≤ a)
    (hm : Memory.wfFrom (a + 1) m = true) : Memory.wfFrom lo (Memory.consCell a b m) = true := by
  unfold Memory.consCell
  split
  · exact Memory.wfFrom_mono hm (by omega)
  · next hb => simp [Memory.wfFrom, h, hb, hm]

theorem Memory.wfFrom_write {lo : Nat} {m : Memory} (hm : Memory.wfFrom lo m = true) {a : Nat} (h : lo ≤ a) (b : Byte) :
    Memory.wfFrom lo (Memory.write m a b) = true := by
  induction m generalizing lo with
  | nil => exact Memory.wfFrom_consCell b h rfl
  | cons c m ih =>
    obtain ⟨k, d⟩ := c
    have hc := hm
    simp only [Memory.wfFrom, Bool.and_eq_true, decide_eq_true_eq] at hm
    unfold Memory.write
    split
    · next hlt =>
      refine Memory.wfFrom_consCell b h ?_
      simp only [Memory.wfFrom, Bool.and_eq_true, decide_eq_true_eq]
      exact ⟨⟨by omega, hm.1.2⟩, hm.2⟩
    · split
      · next hlt heq => subst heq; exact Memory.wfFrom_consCell b h hm.2
      · next hlt hne =>
        simp only [Memory.wfFrom, Bool.and_eq_true, decide_eq_true_eq]
        exact ⟨hm.1, ih hm.2 (by omega)⟩

/-- A write keeps the canonical form. -/
theorem Memory.wf_write {m : Memory} (hm : Memory.wf m = true) (a : Nat) (b : Byte) :
    Memory.wf (Memory.write m a b) = true :=
  Memory.wfFrom_write hm (Nat.zero_le a) b

/-- A write of several bytes keeps the canonical form. -/
theorem Memory.wf_writeRange {m : Memory} (hm : Memory.wf m = true) (a : Nat) (bs : List Byte) :
    Memory.wf (Memory.writeRange m a bs) = true := by
  induction bs generalizing m a with
  | nil => exact hm
  | cons b bs ih => exact ih (Memory.wf_write hm a b) (a + 1)

theorem Memory.inRam_consCell {a : Nat} (b : Byte) {m : Memory} (h : Config.fontEnd ≤ a ∧ a < Config.memSize)
    (hm : Memory.inRam m = true) : Memory.inRam (Memory.consCell a b m) = true := by
  unfold Memory.consCell
  split
  · exact hm
  · simp only [Memory.inRam, List.all_cons, Bool.and_eq_true, decide_eq_true_eq] at hm ⊢
    exact ⟨h, hm⟩

theorem Memory.inRam_write {m : Memory} (hm : Memory.inRam m = true) {a : Nat} (b : Byte)
    (h : Config.fontEnd ≤ a ∧ a < Config.memSize) : Memory.inRam (Memory.write m a b) = true := by
  induction m with
  | nil => exact Memory.inRam_consCell b h hm
  | cons c m ih =>
    obtain ⟨k, d⟩ := c
    have hc : Memory.inRam m = true ∧ Config.fontEnd ≤ k ∧ k < Config.memSize := by
      simp only [Memory.inRam, List.all_cons, Bool.and_eq_true, decide_eq_true_eq] at hm
      exact ⟨hm.2, hm.1⟩
    unfold Memory.write
    split
    · exact Memory.inRam_consCell b h hm
    · split
      · exact Memory.inRam_consCell b h hc.1
      · have := ih hc.1
        simp only [Memory.inRam, List.all_cons, Bool.and_eq_true, decide_eq_true_eq] at this ⊢
        exact ⟨hc.2, this⟩

/-- Writes inside RAM keep every listed address inside RAM. -/
theorem Memory.inRam_writeRange {m : Memory} (hm : Memory.inRam m = true) {a : Nat} {bs : List Byte}
    (h : bs = [] ∨ Config.fontEnd ≤ a ∧ a + bs.length ≤ Config.memSize) :
    Memory.inRam (Memory.writeRange m a bs) = true := by
  induction bs generalizing m a with
  | nil => exact hm
  | cons b bs ih =>
    obtain h | h := h
    · cases h
    · simp only [List.length_cons] at h
      exact ih (Memory.inRam_write hm b ⟨h.1, by omega⟩) (.inr ⟨by omega, by omega⟩)

/-- With all listed addresses in RAM, the font reads as at reset. -/
theorem Memory.read_font {m : Memory} (hm : Memory.inRam m = true) {a : Nat} (h : a < Config.fontEnd) :
    Memory.read m a = unlistedByte a := by
  induction m with
  | nil => rfl
  | cons c m ih =>
    obtain ⟨k, b⟩ := c
    simp only [Memory.inRam, List.all_cons, Bool.and_eq_true, decide_eq_true_eq] at hm
    have hk : a ≠ k := by omega
    simp only [Memory.read, hk, if_false]
    exact ih hm.2

/-! ### Several bytes -/

/-- A read after a write of several bytes: the byte of that place inside the block, as before outside it. -/
theorem Memory.read_writeRange {m : Memory} (hm : Memory.wf m = true) (a : Nat) (bs : List Byte) (a' : Nat) :
    Memory.read (Memory.writeRange m a bs) a' =
      if h : a ≤ a' ∧ a' < a + bs.length then bs[a' - a]'(by omega) else Memory.read m a' := by
  induction bs generalizing m a with
  | nil =>
    have h : ¬ (a ≤ a' ∧ a' < a + ([] : List Byte).length) := by simp only [List.length_nil]; omega
    rw [dif_neg h]; rfl
  | cons b bs ih =>
    simp only [Memory.writeRange, ih (Memory.wf_write hm a b) (a + 1), Memory.read_write hm, List.length_cons]
    by_cases h1 : a + 1 ≤ a' ∧ a' < a + 1 + bs.length
    · have h2 : a ≤ a' ∧ a' < a + (bs.length + 1) := by omega
      rw [dif_pos h1, dif_pos h2]
      have e : a' - a = (a' - (a + 1)) + 1 := by omega
      simp only [e, List.getElem_cons_succ]
    · rw [dif_neg h1]
      by_cases h3 : a' = a
      · subst h3
        rw [if_pos rfl, dif_pos (by omega)]
        simp
      · rw [if_neg h3, dif_neg (by omega)]

/-- The `k`-th byte of a block written reads back. -/
theorem Memory.read_writeRange_inside {m : Memory} (hm : Memory.wf m = true) (a : Nat) {bs : List Byte} {k : Nat}
    (h : k < bs.length) : Memory.read (Memory.writeRange m a bs) (a + k) = bs[k] := by
  rw [Memory.read_writeRange hm, dif_pos (by omega)]
  congr 1; omega

@[simp] theorem Memory.length_readRange (m : Memory) (a n : Nat) : (Memory.readRange m a n).length = n := by
  induction n generalizing a with
  | zero => rfl
  | succ n ih => simp [Memory.readRange, ih]

theorem Memory.getElem_readRange (m : Memory) (a n k : Nat) (h : k < (Memory.readRange m a n).length) :
    (Memory.readRange m a n)[k] = Memory.read m (a + k) := by
  induction n generalizing a k with
  | zero => simp [Memory.readRange] at h
  | succ n ih =>
    cases k with
    | zero => rfl
    | succ k =>
      simp only [Memory.readRange, List.getElem_cons_succ]
      rw [ih (a + 1) k (by simpa using h)]
      congr 1; omega

end Sys2Proof.Machine
end

