-- ==== Sys2Proof/Laws/State.lean ====
section
/-! SUPPORT. What each update of the state does to each field: one lemma per field per update, so that no proof
unfolds a record update. -/

namespace Sys2Proof.Machine

variable (s : State)

/-! ### setReg -/

@[simp] theorem State.setReg_v (r : Reg) (b : Byte) : (s.setReg r b).v = s.v.set r b := rfl
@[simp] theorem State.setReg_i (r : Reg) (b : Byte) : (s.setReg r b).i = s.i := rfl
@[simp] theorem State.setReg_pc (r : Reg) (b : Byte) : (s.setReg r b).pc = s.pc := rfl
@[simp] theorem State.setReg_sp (r : Reg) (b : Byte) : (s.setReg r b).sp = s.sp := rfl
@[simp] theorem State.setReg_stack (r : Reg) (b : Byte) : (s.setReg r b).stack = s.stack := rfl
@[simp] theorem State.setReg_dt (r : Reg) (b : Byte) : (s.setReg r b).dt = s.dt := rfl
@[simp] theorem State.setReg_st (r : Reg) (b : Byte) : (s.setReg r b).st = s.st := rfl
@[simp] theorem State.setReg_keys (r : Reg) (b : Byte) : (s.setReg r b).keys = s.keys := rfl
@[simp] theorem State.setReg_mem (r : Reg) (b : Byte) : (s.setReg r b).mem = s.mem := rfl
@[simp] theorem State.setReg_fb (r : Reg) (b : Byte) : (s.setReg r b).fb = s.fb := rfl
@[simp] theorem State.setReg_rd (r : Reg) (b : Byte) : (s.setReg r b).rd = s.rd := rfl
@[simp] theorem State.setReg_mode (r : Reg) (b : Byte) : (s.setReg r b).mode = s.mode := rfl
@[simp] theorem State.setReg_fault (r : Reg) (b : Byte) : (s.setReg r b).fault = s.fault := rfl
@[simp] theorem State.setReg_draws (r : Reg) (b : Byte) : (s.setReg r b).draws = s.draws := rfl

/-! ### setFlag -/

@[simp] theorem State.setFlag_v (f : Bool) : (s.setFlag f).v = s.v.set vf (if f then 1 else 0) := rfl
@[simp] theorem State.setFlag_i (f : Bool) : (s.setFlag f).i = s.i := rfl
@[simp] theorem State.setFlag_pc (f : Bool) : (s.setFlag f).pc = s.pc := rfl
@[simp] theorem State.setFlag_sp (f : Bool) : (s.setFlag f).sp = s.sp := rfl
@[simp] theorem State.setFlag_stack (f : Bool) : (s.setFlag f).stack = s.stack := rfl
@[simp] theorem State.setFlag_dt (f : Bool) : (s.setFlag f).dt = s.dt := rfl
@[simp] theorem State.setFlag_st (f : Bool) : (s.setFlag f).st = s.st := rfl
@[simp] theorem State.setFlag_keys (f : Bool) : (s.setFlag f).keys = s.keys := rfl
@[simp] theorem State.setFlag_mem (f : Bool) : (s.setFlag f).mem = s.mem := rfl
@[simp] theorem State.setFlag_fb (f : Bool) : (s.setFlag f).fb = s.fb := rfl
@[simp] theorem State.setFlag_rd (f : Bool) : (s.setFlag f).rd = s.rd := rfl
@[simp] theorem State.setFlag_mode (f : Bool) : (s.setFlag f).mode = s.mode := rfl
@[simp] theorem State.setFlag_fault (f : Bool) : (s.setFlag f).fault = s.fault := rfl
@[simp] theorem State.setFlag_draws (f : Bool) : (s.setFlag f).draws = s.draws := rfl

/-! ### advance -/

@[simp] theorem State.advance_v : (s.advance).v = s.v := rfl
@[simp] theorem State.advance_i : (s.advance).i = s.i := rfl
@[simp] theorem State.advance_pc : (s.advance).pc = s.pc + 2 := rfl
@[simp] theorem State.advance_sp : (s.advance).sp = s.sp := rfl
@[simp] theorem State.advance_stack : (s.advance).stack = s.stack := rfl
@[simp] theorem State.advance_dt : (s.advance).dt = s.dt := rfl
@[simp] theorem State.advance_st : (s.advance).st = s.st := rfl
@[simp] theorem State.advance_keys : (s.advance).keys = s.keys := rfl
@[simp] theorem State.advance_mem : (s.advance).mem = s.mem := rfl
@[simp] theorem State.advance_fb : (s.advance).fb = s.fb := rfl
@[simp] theorem State.advance_rd : (s.advance).rd = s.rd := rfl
@[simp] theorem State.advance_mode : (s.advance).mode = s.mode := rfl
@[simp] theorem State.advance_fault : (s.advance).fault = s.fault := rfl
@[simp] theorem State.advance_draws : (s.advance).draws = s.draws := rfl

/-! ### skipIf -/

@[simp] theorem State.skipIf_v (c : Bool) : (s.skipIf c).v = s.v := rfl
@[simp] theorem State.skipIf_i (c : Bool) : (s.skipIf c).i = s.i := rfl
@[simp] theorem State.skipIf_pc (c : Bool) : (s.skipIf c).pc = if c then s.pc + 4 else s.pc + 2 := rfl
@[simp] theorem State.skipIf_sp (c : Bool) : (s.skipIf c).sp = s.sp := rfl
@[simp] theorem State.skipIf_stack (c : Bool) : (s.skipIf c).stack = s.stack := rfl
@[simp] theorem State.skipIf_dt (c : Bool) : (s.skipIf c).dt = s.dt := rfl
@[simp] theorem State.skipIf_st (c : Bool) : (s.skipIf c).st = s.st := rfl
@[simp] theorem State.skipIf_keys (c : Bool) : (s.skipIf c).keys = s.keys := rfl
@[simp] theorem State.skipIf_mem (c : Bool) : (s.skipIf c).mem = s.mem := rfl
@[simp] theorem State.skipIf_fb (c : Bool) : (s.skipIf c).fb = s.fb := rfl
@[simp] theorem State.skipIf_rd (c : Bool) : (s.skipIf c).rd = s.rd := rfl
@[simp] theorem State.skipIf_mode (c : Bool) : (s.skipIf c).mode = s.mode := rfl
@[simp] theorem State.skipIf_fault (c : Bool) : (s.skipIf c).fault = s.fault := rfl
@[simp] theorem State.skipIf_draws (c : Bool) : (s.skipIf c).draws = s.draws := rfl

/-! ### jumpTo -/

@[simp] theorem State.jumpTo_v (w : Word) : (s.jumpTo w).v = s.v := rfl
@[simp] theorem State.jumpTo_i (w : Word) : (s.jumpTo w).i = s.i := rfl
@[simp] theorem State.jumpTo_pc (w : Word) : (s.jumpTo w).pc = w := rfl
@[simp] theorem State.jumpTo_sp (w : Word) : (s.jumpTo w).sp = s.sp := rfl
@[simp] theorem State.jumpTo_stack (w : Word) : (s.jumpTo w).stack = s.stack := rfl
@[simp] theorem State.jumpTo_dt (w : Word) : (s.jumpTo w).dt = s.dt := rfl
@[simp] theorem State.jumpTo_st (w : Word) : (s.jumpTo w).st = s.st := rfl
@[simp] theorem State.jumpTo_keys (w : Word) : (s.jumpTo w).keys = s.keys := rfl
@[simp] theorem State.jumpTo_mem (w : Word) : (s.jumpTo w).mem = s.mem := rfl
@[simp] theorem State.jumpTo_fb (w : Word) : (s.jumpTo w).fb = s.fb := rfl
@[simp] theorem State.jumpTo_rd (w : Word) : (s.jumpTo w).rd = s.rd := rfl
@[simp] theorem State.jumpTo_mode (w : Word) : (s.jumpTo w).mode = s.mode := rfl
@[simp] theorem State.jumpTo_fault (w : Word) : (s.jumpTo w).fault = s.fault := rfl
@[simp] theorem State.jumpTo_draws (w : Word) : (s.jumpTo w).draws = s.draws := rfl

/-! ### halted -/

@[simp] theorem State.halted_v (c : Cause) : (s.halted c).v = s.v := rfl
@[simp] theorem State.halted_i (c : Cause) : (s.halted c).i = s.i := rfl
@[simp] theorem State.halted_pc (c : Cause) : (s.halted c).pc = s.pc := rfl
@[simp] theorem State.halted_sp (c : Cause) : (s.halted c).sp = s.sp := rfl
@[simp] theorem State.halted_stack (c : Cause) : (s.halted c).stack = s.stack := rfl
@[simp] theorem State.halted_dt (c : Cause) : (s.halted c).dt = s.dt := rfl
@[simp] theorem State.halted_st (c : Cause) : (s.halted c).st = s.st := rfl
@[simp] theorem State.halted_keys (c : Cause) : (s.halted c).keys = s.keys := rfl
@[simp] theorem State.halted_mem (c : Cause) : (s.halted c).mem = s.mem := rfl
@[simp] theorem State.halted_fb (c : Cause) : (s.halted c).fb = s.fb := rfl
@[simp] theorem State.halted_rd (c : Cause) : (s.halted c).rd = s.rd := rfl
@[simp] theorem State.halted_mode (c : Cause) : (s.halted c).mode = .halt := rfl
@[simp] theorem State.halted_fault (c : Cause) : (s.halted c).fault = some ⟨c, s.pc⟩ := rfl
@[simp] theorem State.halted_draws (c : Cause) : (s.halted c).draws = s.draws := rfl

/-! ### tick -/

@[simp] theorem State.tick_v : (s.tick).v = s.v := rfl
@[simp] theorem State.tick_i : (s.tick).i = s.i := rfl
@[simp] theorem State.tick_pc : (s.tick).pc = s.pc := rfl
@[simp] theorem State.tick_sp : (s.tick).sp = s.sp := rfl
@[simp] theorem State.tick_stack : (s.tick).stack = s.stack := rfl
@[simp] theorem State.tick_dt : (s.tick).dt = countDown s.dt := rfl
@[simp] theorem State.tick_st : (s.tick).st = countDown s.st := rfl
@[simp] theorem State.tick_keys : (s.tick).keys = s.keys := rfl
@[simp] theorem State.tick_mem : (s.tick).mem = s.mem := rfl
@[simp] theorem State.tick_fb : (s.tick).fb = s.fb := rfl
@[simp] theorem State.tick_rd : (s.tick).rd = s.rd := rfl
@[simp] theorem State.tick_mode : (s.tick).mode = s.mode := rfl
@[simp] theorem State.tick_fault : (s.tick).fault = s.fault := rfl
@[simp] theorem State.tick_draws : (s.tick).draws = s.draws := rfl

/-! ### storeAtI -/

@[simp] theorem State.storeAtI_v (bs : List Byte) : (s.storeAtI bs).v = s.v := rfl
@[simp] theorem State.storeAtI_i (bs : List Byte) : (s.storeAtI bs).i = s.i := rfl
@[simp] theorem State.storeAtI_pc (bs : List Byte) : (s.storeAtI bs).pc = s.pc := rfl
@[simp] theorem State.storeAtI_sp (bs : List Byte) : (s.storeAtI bs).sp = s.sp := rfl
@[simp] theorem State.storeAtI_stack (bs : List Byte) : (s.storeAtI bs).stack = s.stack := rfl
@[simp] theorem State.storeAtI_dt (bs : List Byte) : (s.storeAtI bs).dt = s.dt := rfl
@[simp] theorem State.storeAtI_st (bs : List Byte) : (s.storeAtI bs).st = s.st := rfl
@[simp] theorem State.storeAtI_keys (bs : List Byte) : (s.storeAtI bs).keys = s.keys := rfl
@[simp] theorem State.storeAtI_mem (bs : List Byte) : (s.storeAtI bs).mem = Memory.writeRange s.mem s.i.toNat bs :=
    rfl
@[simp] theorem State.storeAtI_fb (bs : List Byte) : (s.storeAtI bs).fb = s.fb := rfl
@[simp] theorem State.storeAtI_rd (bs : List Byte) : (s.storeAtI bs).rd = s.rd := rfl
@[simp] theorem State.storeAtI_mode (bs : List Byte) : (s.storeAtI bs).mode = s.mode := rfl
@[simp] theorem State.storeAtI_fault (bs : List Byte) : (s.storeAtI bs).fault = s.fault := rfl
@[simp] theorem State.storeAtI_draws (bs : List Byte) : (s.storeAtI bs).draws = s.draws := rfl

/-! ### placeWord -/

@[simp] theorem State.placeWord_v (w : Word) : (s.placeWord w).v = s.v := rfl
@[simp] theorem State.placeWord_i (w : Word) : (s.placeWord w).i = s.i := rfl
@[simp] theorem State.placeWord_pc (w : Word) : (s.placeWord w).pc = s.pc := rfl
@[simp] theorem State.placeWord_sp (w : Word) : (s.placeWord w).sp = s.sp := rfl
@[simp] theorem State.placeWord_stack (w : Word) : (s.placeWord w).stack = s.stack := rfl
@[simp] theorem State.placeWord_dt (w : Word) : (s.placeWord w).dt = s.dt := rfl
@[simp] theorem State.placeWord_st (w : Word) : (s.placeWord w).st = s.st := rfl
@[simp] theorem State.placeWord_keys (w : Word) : (s.placeWord w).keys = s.keys := rfl
@[simp] theorem State.placeWord_mem (w : Word) :
    (s.placeWord w).mem = Memory.writeRange s.mem s.pc.toNat [highByte w, lowByte w] := rfl
@[simp] theorem State.placeWord_fb (w : Word) : (s.placeWord w).fb = s.fb := rfl
@[simp] theorem State.placeWord_rd (w : Word) : (s.placeWord w).rd = s.rd := rfl
@[simp] theorem State.placeWord_mode (w : Word) : (s.placeWord w).mode = s.mode := rfl
@[simp] theorem State.placeWord_fault (w : Word) : (s.placeWord w).fault = s.fault := rfl
@[simp] theorem State.placeWord_draws (w : Word) : (s.placeWord w).draws = s.draws := rfl

/-! ### setIndex -/

@[simp] theorem State.setIndex_v (w : Word) : (s.setIndex w).v = s.v := rfl
@[simp] theorem State.setIndex_i (w : Word) : (s.setIndex w).i = w := rfl
@[simp] theorem State.setIndex_pc (w : Word) : (s.setIndex w).pc = s.pc := rfl
@[simp] theorem State.setIndex_sp (w : Word) : (s.setIndex w).sp = s.sp := rfl
@[simp] theorem State.setIndex_stack (w : Word) : (s.setIndex w).stack = s.stack := rfl
@[simp] theorem State.setIndex_dt (w : Word) : (s.setIndex w).dt = s.dt := rfl
@[simp] theorem State.setIndex_st (w : Word) : (s.setIndex w).st = s.st := rfl
@[simp] theorem State.setIndex_keys (w : Word) : (s.setIndex w).keys = s.keys := rfl
@[simp] theorem State.setIndex_mem (w : Word) : (s.setIndex w).mem = s.mem := rfl
@[simp] theorem State.setIndex_fb (w : Word) : (s.setIndex w).fb = s.fb := rfl
@[simp] theorem State.setIndex_rd (w : Word) : (s.setIndex w).rd = s.rd := rfl
@[simp] theorem State.setIndex_mode (w : Word) : (s.setIndex w).mode = s.mode := rfl
@[simp] theorem State.setIndex_fault (w : Word) : (s.setIndex w).fault = s.fault := rfl
@[simp] theorem State.setIndex_draws (w : Word) : (s.setIndex w).draws = s.draws := rfl

/-! ### setRegs -/

@[simp] theorem State.setRegs_v (v : Vector Byte 16) : (s.setRegs v).v = v := rfl
@[simp] theorem State.setRegs_i (v : Vector Byte 16) : (s.setRegs v).i = s.i := rfl
@[simp] theorem State.setRegs_pc (v : Vector Byte 16) : (s.setRegs v).pc = s.pc := rfl
@[simp] theorem State.setRegs_sp (v : Vector Byte 16) : (s.setRegs v).sp = s.sp := rfl
@[simp] theorem State.setRegs_stack (v : Vector Byte 16) : (s.setRegs v).stack = s.stack := rfl
@[simp] theorem State.setRegs_dt (v : Vector Byte 16) : (s.setRegs v).dt = s.dt := rfl
@[simp] theorem State.setRegs_st (v : Vector Byte 16) : (s.setRegs v).st = s.st := rfl
@[simp] theorem State.setRegs_keys (v : Vector Byte 16) : (s.setRegs v).keys = s.keys := rfl
@[simp] theorem State.setRegs_mem (v : Vector Byte 16) : (s.setRegs v).mem = s.mem := rfl
@[simp] theorem State.setRegs_fb (v : Vector Byte 16) : (s.setRegs v).fb = s.fb := rfl
@[simp] theorem State.setRegs_rd (v : Vector Byte 16) : (s.setRegs v).rd = s.rd := rfl
@[simp] theorem State.setRegs_mode (v : Vector Byte 16) : (s.setRegs v).mode = s.mode := rfl
@[simp] theorem State.setRegs_fault (v : Vector Byte 16) : (s.setRegs v).fault = s.fault := rfl
@[simp] theorem State.setRegs_draws (v : Vector Byte 16) : (s.setRegs v).draws = s.draws := rfl

/-! ### setDelay -/

@[simp] theorem State.setDelay_v (b : Byte) : (s.setDelay b).v = s.v := rfl
@[simp] theorem State.setDelay_i (b : Byte) : (s.setDelay b).i = s.i := rfl
@[simp] theorem State.setDelay_pc (b : Byte) : (s.setDelay b).pc = s.pc := rfl
@[simp] theorem State.setDelay_sp (b : Byte) : (s.setDelay b).sp = s.sp := rfl
@[simp] theorem State.setDelay_stack (b : Byte) : (s.setDelay b).stack = s.stack := rfl
@[simp] theorem State.setDelay_dt (b : Byte) : (s.setDelay b).dt = b := rfl
@[simp] theorem State.setDelay_st (b : Byte) : (s.setDelay b).st = s.st := rfl
@[simp] theorem State.setDelay_keys (b : Byte) : (s.setDelay b).keys = s.keys := rfl
@[simp] theorem State.setDelay_mem (b : Byte) : (s.setDelay b).mem = s.mem := rfl
@[simp] theorem State.setDelay_fb (b : Byte) : (s.setDelay b).fb = s.fb := rfl
@[simp] theorem State.setDelay_rd (b : Byte) : (s.setDelay b).rd = s.rd := rfl
@[simp] theorem State.setDelay_mode (b : Byte) : (s.setDelay b).mode = s.mode := rfl
@[simp] theorem State.setDelay_fault (b : Byte) : (s.setDelay b).fault = s.fault := rfl
@[simp] theorem State.setDelay_draws (b : Byte) : (s.setDelay b).draws = s.draws := rfl

/-! ### setSound -/

@[simp] theorem State.setSound_v (b : Byte) : (s.setSound b).v = s.v := rfl
@[simp] theorem State.setSound_i (b : Byte) : (s.setSound b).i = s.i := rfl
@[simp] theorem State.setSound_pc (b : Byte) : (s.setSound b).pc = s.pc := rfl
@[simp] theorem State.setSound_sp (b : Byte) : (s.setSound b).sp = s.sp := rfl
@[simp] theorem State.setSound_stack (b : Byte) : (s.setSound b).stack = s.stack := rfl
@[simp] theorem State.setSound_dt (b : Byte) : (s.setSound b).dt = s.dt := rfl
@[simp] theorem State.setSound_st (b : Byte) : (s.setSound b).st = b := rfl
@[simp] theorem State.setSound_keys (b : Byte) : (s.setSound b).keys = s.keys := rfl
@[simp] theorem State.setSound_mem (b : Byte) : (s.setSound b).mem = s.mem := rfl
@[simp] theorem State.setSound_fb (b : Byte) : (s.setSound b).fb = s.fb := rfl
@[simp] theorem State.setSound_rd (b : Byte) : (s.setSound b).rd = s.rd := rfl
@[simp] theorem State.setSound_mode (b : Byte) : (s.setSound b).mode = s.mode := rfl
@[simp] theorem State.setSound_fault (b : Byte) : (s.setSound b).fault = s.fault := rfl
@[simp] theorem State.setSound_draws (b : Byte) : (s.setSound b).draws = s.draws := rfl

/-! ### countDraw -/

@[simp] theorem State.countDraw_v : (s.countDraw).v = s.v := rfl
@[simp] theorem State.countDraw_i : (s.countDraw).i = s.i := rfl
@[simp] theorem State.countDraw_pc : (s.countDraw).pc = s.pc := rfl
@[simp] theorem State.countDraw_sp : (s.countDraw).sp = s.sp := rfl
@[simp] theorem State.countDraw_stack : (s.countDraw).stack = s.stack := rfl
@[simp] theorem State.countDraw_dt : (s.countDraw).dt = s.dt := rfl
@[simp] theorem State.countDraw_st : (s.countDraw).st = s.st := rfl
@[simp] theorem State.countDraw_keys : (s.countDraw).keys = s.keys := rfl
@[simp] theorem State.countDraw_mem : (s.countDraw).mem = s.mem := rfl
@[simp] theorem State.countDraw_fb : (s.countDraw).fb = s.fb := rfl
@[simp] theorem State.countDraw_rd : (s.countDraw).rd = s.rd := rfl
@[simp] theorem State.countDraw_mode : (s.countDraw).mode = s.mode := rfl
@[simp] theorem State.countDraw_fault : (s.countDraw).fault = s.fault := rfl
@[simp] theorem State.countDraw_draws : (s.countDraw).draws = s.draws + 1 := rfl

/-! ### enterWait -/

@[simp] theorem State.enterWait_v (r : Reg) : (s.enterWait r).v = s.v := rfl
@[simp] theorem State.enterWait_i (r : Reg) : (s.enterWait r).i = s.i := rfl
@[simp] theorem State.enterWait_pc (r : Reg) : (s.enterWait r).pc = s.pc := rfl
@[simp] theorem State.enterWait_sp (r : Reg) : (s.enterWait r).sp = s.sp := rfl
@[simp] theorem State.enterWait_stack (r : Reg) : (s.enterWait r).stack = s.stack := rfl
@[simp] theorem State.enterWait_dt (r : Reg) : (s.enterWait r).dt = s.dt := rfl
@[simp] theorem State.enterWait_st (r : Reg) : (s.enterWait r).st = s.st := rfl
@[simp] theorem State.enterWait_keys (r : Reg) : (s.enterWait r).keys = s.keys := rfl
@[simp] theorem State.enterWait_mem (r : Reg) : (s.enterWait r).mem = s.mem := rfl
@[simp] theorem State.enterWait_fb (r : Reg) : (s.enterWait r).fb = s.fb := rfl
@[simp] theorem State.enterWait_rd (r : Reg) : (s.enterWait r).rd = s.rd := rfl
@[simp] theorem State.enterWait_mode (r : Reg) : (s.enterWait r).mode = .wait r := rfl
@[simp] theorem State.enterWait_fault (r : Reg) : (s.enterWait r).fault = s.fault := rfl
@[simp] theorem State.enterWait_draws (r : Reg) : (s.enterWait r).draws = s.draws := rfl

/-! ### pushed -/

@[simp] theorem State.pushed_v (w : Word) (h : s.sp.toNat < 16) : (s.pushed w h).v = s.v := rfl
@[simp] theorem State.pushed_i (w : Word) (h : s.sp.toNat < 16) : (s.pushed w h).i = s.i := rfl
@[simp] theorem State.pushed_pc (w : Word) (h : s.sp.toNat < 16) : (s.pushed w h).pc = w := rfl
@[simp] theorem State.pushed_sp (w : Word) (h : s.sp.toNat < 16) : (s.pushed w h).sp = s.sp + 1 := rfl
@[simp] theorem State.pushed_stack (w : Word) (h : s.sp.toNat < 16) :
    (s.pushed w h).stack = s.stack.set s.sp.toNat s.pc h := rfl
@[simp] theorem State.pushed_dt (w : Word) (h : s.sp.toNat < 16) : (s.pushed w h).dt = s.dt := rfl
@[simp] theorem State.pushed_st (w : Word) (h : s.sp.toNat < 16) : (s.pushed w h).st = s.st := rfl
@[simp] theorem State.pushed_keys (w : Word) (h : s.sp.toNat < 16) : (s.pushed w h).keys = s.keys := rfl
@[simp] theorem State.pushed_mem (w : Word) (h : s.sp.toNat < 16) : (s.pushed w h).mem = s.mem := rfl
@[simp] theorem State.pushed_fb (w : Word) (h : s.sp.toNat < 16) : (s.pushed w h).fb = s.fb := rfl
@[simp] theorem State.pushed_rd (w : Word) (h : s.sp.toNat < 16) : (s.pushed w h).rd = s.rd := rfl
@[simp] theorem State.pushed_mode (w : Word) (h : s.sp.toNat < 16) : (s.pushed w h).mode = s.mode := rfl
@[simp] theorem State.pushed_fault (w : Word) (h : s.sp.toNat < 16) : (s.pushed w h).fault = s.fault := rfl
@[simp] theorem State.pushed_draws (w : Word) (h : s.sp.toNat < 16) : (s.pushed w h).draws = s.draws := rfl

/-! ### popped -/

@[simp] theorem State.popped_v (h : s.sp.toNat - 1 < 16) : (s.popped h).v = s.v := rfl
@[simp] theorem State.popped_i (h : s.sp.toNat - 1 < 16) : (s.popped h).i = s.i := rfl
@[simp] theorem State.popped_pc (h : s.sp.toNat - 1 < 16) : (s.popped h).pc = s.stack[s.sp.toNat - 1] + 2 := rfl
@[simp] theorem State.popped_sp (h : s.sp.toNat - 1 < 16) : (s.popped h).sp = s.sp - 1 := rfl
@[simp] theorem State.popped_stack (h : s.sp.toNat - 1 < 16) : (s.popped h).stack = s.stack := rfl
@[simp] theorem State.popped_dt (h : s.sp.toNat - 1 < 16) : (s.popped h).dt = s.dt := rfl
@[simp] theorem State.popped_st (h : s.sp.toNat - 1 < 16) : (s.popped h).st = s.st := rfl
@[simp] theorem State.popped_keys (h : s.sp.toNat - 1 < 16) : (s.popped h).keys = s.keys := rfl
@[simp] theorem State.popped_mem (h : s.sp.toNat - 1 < 16) : (s.popped h).mem = s.mem := rfl
@[simp] theorem State.popped_fb (h : s.sp.toNat - 1 < 16) : (s.popped h).fb = s.fb := rfl
@[simp] theorem State.popped_rd (h : s.sp.toNat - 1 < 16) : (s.popped h).rd = s.rd := rfl
@[simp] theorem State.popped_mode (h : s.sp.toNat - 1 < 16) : (s.popped h).mode = s.mode := rfl
@[simp] theorem State.popped_fault (h : s.sp.toNat - 1 < 16) : (s.popped h).fault = s.fault := rfl
@[simp] theorem State.popped_draws (h : s.sp.toNat - 1 < 16) : (s.popped h).draws = s.draws := rfl

/-! ### setScreen -/

@[simp] theorem State.setScreen_v (f : Screen) : (s.setScreen f).v = s.v := rfl
@[simp] theorem State.setScreen_i (f : Screen) : (s.setScreen f).i = s.i := rfl
@[simp] theorem State.setScreen_pc (f : Screen) : (s.setScreen f).pc = s.pc := rfl
@[simp] theorem State.setScreen_sp (f : Screen) : (s.setScreen f).sp = s.sp := rfl
@[simp] theorem State.setScreen_stack (f : Screen) : (s.setScreen f).stack = s.stack := rfl
@[simp] theorem State.setScreen_dt (f : Screen) : (s.setScreen f).dt = s.dt := rfl
@[simp] theorem State.setScreen_st (f : Screen) : (s.setScreen f).st = s.st := rfl
@[simp] theorem State.setScreen_keys (f : Screen) : (s.setScreen f).keys = s.keys := rfl
@[simp] theorem State.setScreen_mem (f : Screen) : (s.setScreen f).mem = s.mem := rfl
@[simp] theorem State.setScreen_fb (f : Screen) : (s.setScreen f).fb = f := rfl
@[simp] theorem State.setScreen_rd (f : Screen) : (s.setScreen f).rd = true := rfl
@[simp] theorem State.setScreen_mode (f : Screen) : (s.setScreen f).mode = s.mode := rfl
@[simp] theorem State.setScreen_fault (f : Screen) : (s.setScreen f).fault = s.fault := rfl
@[simp] theorem State.setScreen_draws (f : Screen) : (s.setScreen f).draws = s.draws := rfl

/-! ### setKeyLevel -/

@[simp] theorem State.setKeyLevel_v (k : Key) (p : Bool) : (s.setKeyLevel k p).v = s.v := rfl
@[simp] theorem State.setKeyLevel_i (k : Key) (p : Bool) : (s.setKeyLevel k p).i = s.i := rfl
@[simp] theorem State.setKeyLevel_pc (k : Key) (p : Bool) : (s.setKeyLevel k p).pc = s.pc := rfl
@[simp] theorem State.setKeyLevel_sp (k : Key) (p : Bool) : (s.setKeyLevel k p).sp = s.sp := rfl
@[simp] theorem State.setKeyLevel_stack (k : Key) (p : Bool) : (s.setKeyLevel k p).stack = s.stack := rfl
@[simp] theorem State.setKeyLevel_dt (k : Key) (p : Bool) : (s.setKeyLevel k p).dt = s.dt := rfl
@[simp] theorem State.setKeyLevel_st (k : Key) (p : Bool) : (s.setKeyLevel k p).st = s.st := rfl
@[simp] theorem State.setKeyLevel_keys (k : Key) (p : Bool) : (s.setKeyLevel k p).keys = s.keys.set k p := rfl
@[simp] theorem State.setKeyLevel_mem (k : Key) (p : Bool) : (s.setKeyLevel k p).mem = s.mem := rfl
@[simp] theorem State.setKeyLevel_fb (k : Key) (p : Bool) : (s.setKeyLevel k p).fb = s.fb := rfl
@[simp] theorem State.setKeyLevel_rd (k : Key) (p : Bool) : (s.setKeyLevel k p).rd = s.rd := rfl
@[simp] theorem State.setKeyLevel_mode (k : Key) (p : Bool) : (s.setKeyLevel k p).mode = s.mode := rfl
@[simp] theorem State.setKeyLevel_fault (k : Key) (p : Bool) : (s.setKeyLevel k p).fault = s.fault := rfl
@[simp] theorem State.setKeyLevel_draws (k : Key) (p : Bool) : (s.setKeyLevel k p).draws = s.draws := rfl

/-! ### clearRedraw -/

@[simp] theorem State.clearRedraw_v : (s.clearRedraw).v = s.v := rfl
@[simp] theorem State.clearRedraw_i : (s.clearRedraw).i = s.i := rfl
@[simp] theorem State.clearRedraw_pc : (s.clearRedraw).pc = s.pc := rfl
@[simp] theorem State.clearRedraw_sp : (s.clearRedraw).sp = s.sp := rfl
@[simp] theorem State.clearRedraw_stack : (s.clearRedraw).stack = s.stack := rfl
@[simp] theorem State.clearRedraw_dt : (s.clearRedraw).dt = s.dt := rfl
@[simp] theorem State.clearRedraw_st : (s.clearRedraw).st = s.st := rfl
@[simp] theorem State.clearRedraw_keys : (s.clearRedraw).keys = s.keys := rfl
@[simp] theorem State.clearRedraw_mem : (s.clearRedraw).mem = s.mem := rfl
@[simp] theorem State.clearRedraw_fb : (s.clearRedraw).fb = s.fb := rfl
@[simp] theorem State.clearRedraw_rd : (s.clearRedraw).rd = false := rfl
@[simp] theorem State.clearRedraw_mode : (s.clearRedraw).mode = s.mode := rfl
@[simp] theorem State.clearRedraw_fault : (s.clearRedraw).fault = s.fault := rfl
@[simp] theorem State.clearRedraw_draws : (s.clearRedraw).draws = s.draws := rfl

/-! ### completeWait -/

@[simp] theorem State.completeWait_v (r : Reg) (k : Key) : (s.completeWait r k).v = s.v.set r (BitVec.ofNat 8 k.val) :=
    rfl
@[simp] theorem State.completeWait_i (r : Reg) (k : Key) : (s.completeWait r k).i = s.i := rfl
@[simp] theorem State.completeWait_pc (r : Reg) (k : Key) : (s.completeWait r k).pc = s.pc + 2 := rfl
@[simp] theorem State.completeWait_sp (r : Reg) (k : Key) : (s.completeWait r k).sp = s.sp := rfl
@[simp] theorem State.completeWait_stack (r : Reg) (k : Key) : (s.completeWait r k).stack = s.stack := rfl
@[simp] theorem State.completeWait_dt (r : Reg) (k : Key) : (s.completeWait r k).dt = s.dt := rfl
@[simp] theorem State.completeWait_st (r : Reg) (k : Key) : (s.completeWait r k).st = s.st := rfl
@[simp] theorem State.completeWait_keys (r : Reg) (k : Key) : (s.completeWait r k).keys = s.keys.set k true := rfl
@[simp] theorem State.completeWait_mem (r : Reg) (k : Key) : (s.completeWait r k).mem = s.mem := rfl
@[simp] theorem State.completeWait_fb (r : Reg) (k : Key) : (s.completeWait r k).fb = s.fb := rfl
@[simp] theorem State.completeWait_rd (r : Reg) (k : Key) : (s.completeWait r k).rd = s.rd := rfl
@[simp] theorem State.completeWait_mode (r : Reg) (k : Key) : (s.completeWait r k).mode = .run := rfl
@[simp] theorem State.completeWait_fault (r : Reg) (k : Key) : (s.completeWait r k).fault = s.fault := rfl
@[simp] theorem State.completeWait_draws (r : Reg) (k : Key) : (s.completeWait r k).draws = s.draws := rfl

/-! ### The accessors -/

@[simp] theorem State.reg_setReg_self (r : Reg) (b : Byte) : (s.setReg r b).reg r = b := by
  simp [State.reg]

theorem State.reg_setReg_of_ne {r q : Reg} (b : Byte) (h : q ≠ r) : (s.setReg r b).reg q = s.reg q := by
  have hv : r.val ≠ q.val := fun e => h (Fin.ext e.symm)
  simp [State.reg, hv]

theorem State.reg_setReg (r q : Reg) (b : Byte) : (s.setReg r b).reg q = if q = r then b else s.reg q := by
  by_cases h : q = r
  · simp [h]
  · simp [h, State.reg_setReg_of_ne s b h]

theorem State.reg_setFlag (q : Reg) (f : Bool) :
    (s.setFlag f).reg q = if q = vf then (if f then 1 else 0) else s.reg q := by
  simp [State.setFlag, State.reg_setReg]

@[simp] theorem State.reg_advance (q : Reg) : (s.advance).reg q = s.reg q := rfl
@[simp] theorem State.reg_skipIf (c : Bool) (q : Reg) : (s.skipIf c).reg q = s.reg q := rfl
@[simp] theorem State.reg_jumpTo (w : Word) (q : Reg) : (s.jumpTo w).reg q = s.reg q := rfl
@[simp] theorem State.reg_halted (c : Cause) (q : Reg) : (s.halted c).reg q = s.reg q := rfl
@[simp] theorem State.reg_tick (q : Reg) : (s.tick).reg q = s.reg q := rfl
@[simp] theorem State.reg_storeAtI (bs : List Byte) (q : Reg) : (s.storeAtI bs).reg q = s.reg q := rfl
@[simp] theorem State.reg_placeWord (w : Word) (q : Reg) : (s.placeWord w).reg q = s.reg q := rfl
@[simp] theorem State.reg_setIndex (w : Word) (q : Reg) : (s.setIndex w).reg q = s.reg q := rfl
@[simp] theorem State.reg_setDelay (b : Byte) (q : Reg) : (s.setDelay b).reg q = s.reg q := rfl
@[simp] theorem State.reg_setSound (b : Byte) (q : Reg) : (s.setSound b).reg q = s.reg q := rfl
@[simp] theorem State.reg_countDraw (q : Reg) : (s.countDraw).reg q = s.reg q := rfl
@[simp] theorem State.reg_enterWait (r : Reg) (q : Reg) : (s.enterWait r).reg q = s.reg q := rfl
@[simp] theorem State.reg_pushed (w : Word) (h : s.sp.toNat < 16) (q : Reg) : (s.pushed w h).reg q = s.reg q := rfl
@[simp] theorem State.reg_popped (h : s.sp.toNat - 1 < 16) (q : Reg) : (s.popped h).reg q = s.reg q := rfl
@[simp] theorem State.reg_setScreen (f : Screen) (q : Reg) : (s.setScreen f).reg q = s.reg q := rfl
@[simp] theorem State.reg_setKeyLevel (k : Key) (p : Bool) (q : Reg) : (s.setKeyLevel k p).reg q = s.reg q := rfl
@[simp] theorem State.reg_clearRedraw (q : Reg) : (s.clearRedraw).reg q = s.reg q := rfl

@[simp] theorem State.key_setReg (r : Reg) (b : Byte) (k : Key) : (s.setReg r b).key k = s.key k := rfl
@[simp] theorem State.key_setFlag (f : Bool) (k : Key) : (s.setFlag f).key k = s.key k := rfl
@[simp] theorem State.key_advance (k : Key) : (s.advance).key k = s.key k := rfl
@[simp] theorem State.key_skipIf (c : Bool) (k : Key) : (s.skipIf c).key k = s.key k := rfl
@[simp] theorem State.key_jumpTo (w : Word) (k : Key) : (s.jumpTo w).key k = s.key k := rfl
@[simp] theorem State.key_halted (c : Cause) (k : Key) : (s.halted c).key k = s.key k := rfl
@[simp] theorem State.key_tick (k : Key) : (s.tick).key k = s.key k := rfl
@[simp] theorem State.key_storeAtI (bs : List Byte) (k : Key) : (s.storeAtI bs).key k = s.key k := rfl
@[simp] theorem State.key_placeWord (w : Word) (k : Key) : (s.placeWord w).key k = s.key k := rfl
@[simp] theorem State.key_setIndex (w : Word) (k : Key) : (s.setIndex w).key k = s.key k := rfl
@[simp] theorem State.key_setRegs (v : Vector Byte 16) (k : Key) : (s.setRegs v).key k = s.key k := rfl
@[simp] theorem State.key_setDelay (b : Byte) (k : Key) : (s.setDelay b).key k = s.key k := rfl
@[simp] theorem State.key_setSound (b : Byte) (k : Key) : (s.setSound b).key k = s.key k := rfl
@[simp] theorem State.key_countDraw (k : Key) : (s.countDraw).key k = s.key k := rfl
@[simp] theorem State.key_enterWait (r : Reg) (k : Key) : (s.enterWait r).key k = s.key k := rfl
@[simp] theorem State.key_pushed (w : Word) (h : s.sp.toNat < 16) (k : Key) : (s.pushed w h).key k = s.key k := rfl
@[simp] theorem State.key_popped (h : s.sp.toNat - 1 < 16) (k : Key) : (s.popped h).key k = s.key k := rfl
@[simp] theorem State.key_setScreen (f : Screen) (k : Key) : (s.setScreen f).key k = s.key k := rfl
@[simp] theorem State.key_clearRedraw (k : Key) : (s.clearRedraw).key k = s.key k := rfl

theorem State.key_setKeyLevel (k q : Key) (p : Bool) :
    (s.setKeyLevel k p).key q = if q = k then p else s.key q := by
  by_cases h : q = k
  · simp [h, State.key]
  · have hv : k.val ≠ q.val := fun e => h (Fin.ext e.symm)
    simp [State.key, h, hv]

end Sys2Proof.Machine
end

