-- ==== Sys2Proof/Laws/Ops.lean ====
section
/-! SUPPORT. One law per shared operation: everything it can answer. -/

namespace Sys2Proof.Machine

/-! ### The address checks (R42, R43, R58) -/

theorem readCheck_of_lt {a : Nat} (h : a < 4096) : readCheck a = none := by
  simp [readCheck, Config.memSize, h]

theorem readCheck_of_le {a : Nat} (h : 4096 ≤ a) : readCheck a = some (.addressError .dataOob a) := by
  have h' : ¬ a < 4096 := by omega
  simp [readCheck, Config.memSize, h']

theorem writeCheck_of_ram {a : Nat} (h : 0x50 ≤ a ∧ a < 4096) : writeCheck a = none := by
  have h1 : ¬ 4096 ≤ a := by omega
  have h2 : ¬ a < 0x50 := by omega
  simp [writeCheck, Config.memSize, Config.fontEnd, h1, h2]

theorem writeCheck_of_font {a : Nat} (h : a < 0x50) : writeCheck a = some (.addressError .fontWrite a) := by
  have h1 : ¬ 4096 ≤ a := by omega
  simp [writeCheck, Config.memSize, Config.fontEnd, h1, h]

theorem writeCheck_of_le {a : Nat} (h : 4096 ≤ a) : writeCheck a = some (.addressError .dataOob a) := by
  simp [writeCheck, Config.memSize, h]

/-- The addresses before the first offending one pass, so the lowest offending one is reported. -/
theorem precheck_append {check : Nat → Option Cause} {a k : Nat} (n : Nat) (h : ∀ j, j < k → check (a + j) = none) :
    precheck check a (k + n) = precheck check (a + k) n := by
  induction k generalizing a with
  | zero => simp
  | succ k ih =>
    have h0 : check a = none := h 0 (by omega)
    have e : k + 1 + n = (k + n) + 1 := by omega
    have hs : ∀ j, j < k → check (a + 1 + j) = none := fun j hj => by
      have := h (j + 1) (by omega)
      rwa [show a + 1 + j = a + (j + 1) by omega]
    simp only [e, precheck, h0]
    rw [ih hs]
    congr 1; omega

theorem precheck_none {check : Nat → Option Cause} {a n : Nat} (h : ∀ j, j < n → check (a + j) = none) :
    precheck check a n = none := by
  have := precheck_append 0 h
  simpa [precheck] using this

/-- If the check of address `a + k` is the first that fails, its cause is the answer. -/
theorem precheck_some {check : Nat → Option Cause} {a k n : Nat} {c : Cause}
    (h : ∀ j, j < k → check (a + j) = none) (hk : k < n) (hc : check (a + k) = some c) :
    precheck check a n = some c := by
  obtain ⟨m, rfl⟩ : ∃ m, n = k + (m + 1) := ⟨n - k - 1, by omega⟩
  rw [precheck_append (m + 1) h]
  simp [precheck, hc]

/-- Everything the check of a block of reads can answer. -/
theorem precheck_read (a n : Nat) :
    precheck readCheck a n =
      if n = 0 ∨ a + n ≤ 4096 then none else some (.addressError .dataOob (max a 4096)) := by
  split
  · next h => exact precheck_none (fun j hj => readCheck_of_lt (by omega))
  · next h =>
    by_cases ha : a < 4096
    · rw [max_eq_right (by omega)]
      refine precheck_some (k := 4096 - a) (fun j hj => readCheck_of_lt (by omega)) (by omega) ?_
      rw [show a + (4096 - a) = 4096 by omega]
      exact readCheck_of_le (by omega)
    · rw [max_eq_left (by omega)]
      refine precheck_some (k := 0) (fun j hj => by omega) (by omega) ?_
      exact readCheck_of_le (by omega)

/-- Everything the check of a block of at most 16 writes can answer. -/
theorem precheck_write {a n : Nat} (hn : 0 < n) (h16 : n ≤ 16) :
    precheck writeCheck a n =
      if a < 0x50 then some (.addressError .fontWrite a)
      else if a + n ≤ 4096 then none
      else some (.addressError .dataOob (max a 4096)) := by
  split
  · next h => exact precheck_some (k := 0) (fun j hj => by omega) hn (writeCheck_of_font (by simpa using h))
  · next h =>
    split
    · next h' => exact precheck_none (fun j hj => writeCheck_of_ram (by omega))
    · next h' =>
      by_cases ha : a < 4096
      · rw [max_eq_right (by omega)]
        refine precheck_some (k := 4096 - a) (fun j hj => writeCheck_of_ram (by omega)) (by omega) ?_
        rw [show a + (4096 - a) = 4096 by omega]
        exact writeCheck_of_le (by omega)
      · rw [max_eq_left (by omega)]
        refine precheck_some (k := 0) (fun j hj => by omega) hn ?_
        exact writeCheck_of_le (by omega)

/-- A guarded read answers its state, or the fault with nothing changed. -/
theorem guardRead_eq (n : Nat) (s t : State) :
    guardRead n s t =
      if n = 0 ∨ s.i.toNat + n ≤ 4096 then .next t
      else .next (s.halted (.addressError .dataOob (max s.i.toNat 4096))) := by
  unfold guardRead
  rw [precheck_read]
  split
  · next h => split at h <;> simp_all [takeFault]
  · next h => split at h <;> simp_all

/-- A guarded write of 1 to 16 bytes answers its state, or the fault with nothing changed. -/
theorem guardWrite_eq {n : Nat} (hn : 0 < n) (h16 : n ≤ 16) (s t : State) :
    guardWrite n s t =
      if s.i.toNat < 0x50 then .next (s.halted (.addressError .fontWrite s.i.toNat))
      else if s.i.toNat + n ≤ 4096 then .next t
      else .next (s.halted (.addressError .dataOob (max s.i.toNat 4096))) := by
  unfold guardWrite
  rw [precheck_write hn h16]
  by_cases h1 : s.i.toNat < 0x50
  · simp [h1, takeFault]
  · by_cases h2 : s.i.toNat + n ≤ 4096 <;> simp [h1, h2, takeFault]

/-! ### The stack (R101, R103) -/

theorem callTo_of_lt {s : State} (target : Word) (h : s.sp.toNat < 16) :
    callTo target s = .next (s.pushed target h) := by
  simp [callTo, h]

theorem callTo_of_full {s : State} (target : Word) (h : s.sp.toNat = 16) :
    callTo target s = .next (s.halted (.stackError .overflow)) := by
  simp [callTo, h, Config.stackDepth, takeFault]

theorem popReturn_of_empty {s : State} (h : s.sp = 0) : popReturn s = .next (s.halted (.stackError .underflow)) := by
  simp [popReturn, h, takeFault]

theorem popReturn_of_pos {s : State} (h0 : 0 < s.sp.toNat) (h : s.sp.toNat - 1 < 16) :
    popReturn s = .next (s.popped h) := by
  have hne : s.sp ≠ 0 := fun e => by simp [e] at h0
  simp only [popReturn, if_neg hne, dif_pos h]

/-- Everything a call can answer as a next state. -/
theorem callTo_cases {s t : State} {target : Word} (h : callTo target s = .next t) :
    (∃ hs : s.sp.toNat < 16, t = s.pushed target hs) ∨
      (s.sp.toNat = 16 ∧ t = s.halted (.stackError .overflow)) := by
  unfold callTo at h
  split at h
  · next hs => exact .inl ⟨hs, by cases h; rfl⟩
  · split at h
    · next he => exact .inr ⟨he, by cases h; rfl⟩
    · cases h

/-- Everything a return can answer as a next state. -/
theorem popReturn_cases {s t : State} (h : popReturn s = .next t) :
    (s.sp = 0 ∧ t = s.halted (.stackError .underflow)) ∨
      (s.sp ≠ 0 ∧ ∃ hs : s.sp.toNat - 1 < 16, t = s.popped hs) := by
  unfold popReturn at h
  split at h
  · next he => exact .inl ⟨he, by cases h; rfl⟩
  · next hne =>
    split at h
    · next hs => exact .inr ⟨hne, hs, by cases h; rfl⟩
    · cases h

/-! ### The fetch and the tick (R44, R82) -/

theorem fetch_of_odd {s : State} (h : s.pc.toNat % 2 = 1) :
    fetch s = .error (.addressError .fetchMisaligned s.pc.toNat) := by
  simp [fetch, h]

theorem fetch_of_oob {s : State} (h : s.pc.toNat % 2 = 0) (h' : 4095 ≤ s.pc.toNat) :
    fetch s = .error (.addressError .fetchOob s.pc.toNat) := by
  have h1 : ¬ s.pc.toNat % 2 = 1 := by omega
  have h2 : 4096 ≤ s.pc.toNat + 1 := by omega
  simp [fetch, h1, h2, Config.memSize]

theorem fetch_of_fetchable {s : State} (h : s.pc.toNat % 2 = 0) (h' : s.pc.toNat ≤ 0x0FFE) :
    fetch s = .ok (joinBytes (Memory.read s.mem s.pc.toNat) (Memory.read s.mem (s.pc.toNat + 1))) := by
  have h1 : ¬ s.pc.toNat % 2 = 1 := by omega
  have h2 : ¬ 4096 ≤ s.pc.toNat + 1 := by omega
  simp [fetch, h1, h2, Config.memSize]

theorem countDown_toNat (t : Byte) : (countDown t).toNat = t.toNat - 1 := by
  unfold countDown
  split
  · next h => simp [h]
  · next h =>
    have h0 : t.toNat ≠ 0 := fun e => h (BitVec.eq_of_toNat_eq (by simpa using e))
    have ht := t.isLt
    have h1 : (1 : Byte).toNat = 1 := rfl
    simp only [BitVec.toNat_sub, h1]
    omega

end Sys2Proof.Machine
end

