-- ==== Sys2Proof/Laws/Display.lean ====
section
/-! SUPPORT. What drawing a sprite does to one cell (44_display R161 to R164): the loop over the sprite's pixels against
the one pixel, if any, that lands on the cell. -/

namespace Sys2Proof.Machine

theorem Screen.cell_toggle (f : Screen) (y y' : Fin 32) (x x' : Fin 64) :
    (f.toggle y x).cell y' x' = (f.cell y' x' ^^ decide (y' = y ∧ x' = x)) := by
  unfold Screen.toggle Screen.cell
  by_cases hy : y' = y
  · subst hy
    by_cases hx : x' = x
    · subst hx; simp
    · have hv : x.val ≠ x'.val := fun e => hx (Fin.ext e.symm)
      simp [hx, hv]
  · have hv : y.val ≠ y'.val := fun e => hy (Fin.ext e.symm)
    simp [hy, hv]

/-- Is the cell the pixel at column offset `c` of a sprite row `b`, with that pixel's bit set? -/
def pixelHits (vx vy : Byte) (r : Nat) (b : Byte) (y : Fin 32) (x : Fin 64) (c : Nat) : Bool :=
  spriteBit b c && decide (y = pixelRow vy r ∧ x = pixelColumn vx c)

/-- Is the cell under a 1 bit of a sprite row (R161)? -/
def rowCovers (vx vy : Byte) (r : Nat) (b : Byte) (y : Fin 32) (x : Fin 64) : Bool :=
  [0, 1, 2, 3, 4, 5, 6, 7].any (pixelHits vx vy r b y x)

/-- Is the cell under a 1 bit of a sprite whose first row is at row offset `r`? -/
def rowsCover (vx vy : Byte) : Nat → List Byte → Fin 32 → Fin 64 → Bool
  | _, [], _, _ => false
  | r, b :: bs, y, x => rowCovers vx vy r b y x || rowsCover vx vy (r + 1) bs y x

theorem drawPixel_cell (vx vy : Byte) (r : Nat) (b : Byte) (d : Drawing) (c : Nat) (y : Fin 32) (x : Fin 64) :
    (drawPixel vx vy r b d c).screen.cell y x = (d.screen.cell y x ^^ pixelHits vx vy r b y x c) := by
  unfold drawPixel pixelHits
  cases hb : spriteBit b c
  · simp
  · simp [Screen.cell_toggle]

theorem drawPixel_hit (vx vy : Byte) (r : Nat) (b : Byte) (d : Drawing) (c : Nat) :
    (drawPixel vx vy r b d c).hit = true ↔
      d.hit = true ∨ ∃ y x, pixelHits vx vy r b y x c = true ∧ d.screen.cell y x = true := by
  unfold drawPixel pixelHits
  cases hb : spriteBit b c
  · simp
  · simp only [Bool.true_and, decide_eq_true_eq, if_true, Bool.or_eq_true]
    constructor
    · rintro (h | h)
      · exact .inl h
      · exact .inr ⟨_, _, ⟨rfl, rfl⟩, h⟩
    · rintro (h | ⟨y, x, ⟨rfl, rfl⟩, h⟩)
      · exact .inl h
      · exact .inr h

/-- Two pixels of one sprite row never land on the same cell: 8 ≤ 64 (R163). -/
theorem pixelHits_inj {vx vy : Byte} {r c c' : Nat} {b : Byte} {y : Fin 32} {x : Fin 64} (hc : c < 8) (hc' : c' < 8)
    (h : pixelHits vx vy r b y x c = true) (h' : pixelHits vx vy r b y x c' = true) : c = c' := by
  simp only [pixelHits, Bool.and_eq_true, decide_eq_true_eq] at h h'
  have e : (pixelColumn vx c).val = (pixelColumn vx c').val := by rw [← h.2.2, ← h'.2.2]
  simp only [pixelColumn] at e
  omega

/-- The loop over distinct column offsets: every cell under one of their 1 bits is XORed once, and `hit` says whether
one of those cells was set. -/
theorem foldl_drawPixel (vx vy : Byte) (r : Nat) (b : Byte) (cs : List Nat) (hcs : cs.Nodup) (h8 : ∀ c ∈ cs, c < 8)
    (d : Drawing) :
    (∀ y x, (cs.foldl (drawPixel vx vy r b) d).screen.cell y x =
      (d.screen.cell y x ^^ cs.any (pixelHits vx vy r b y x))) ∧
    ((cs.foldl (drawPixel vx vy r b) d).hit = true ↔
      d.hit = true ∨ ∃ y x, cs.any (pixelHits vx vy r b y x) = true ∧ d.screen.cell y x = true) := by
  induction cs generalizing d with
  | nil => simp
  | cons c cs ih =>
    obtain ⟨hnot, hnd⟩ := List.nodup_cons.mp hcs
    obtain ⟨ihc, ihh⟩ := ih hnd (fun c' h => h8 c' (List.mem_cons_of_mem _ h)) (drawPixel vx vy r b d c)
    have hdisj : ∀ y x, pixelHits vx vy r b y x c = true → cs.any (pixelHits vx vy r b y x) = false := by
      intro y x h
      rw [List.any_eq_false]
      intro c' hc' h'
      have := pixelHits_inj (h8 c (by simp)) (h8 c' (by simp [hc'])) h h'
      exact hnot (this ▸ hc')
    constructor
    · intro y x
      rw [List.foldl_cons, ihc, drawPixel_cell, List.any_cons]
      cases hp : pixelHits vx vy r b y x c
      · simp
      · simp [hdisj y x hp]
    · rw [List.foldl_cons, ihh, drawPixel_hit]
      simp only [drawPixel_cell, List.any_cons, Bool.or_eq_true]
      constructor
      · rintro ((h | ⟨y, x, h, hd⟩) | ⟨y, x, h, hd⟩)
        · exact .inl h
        · exact .inr ⟨y, x, .inl h, hd⟩
        · cases hp : pixelHits vx vy r b y x c
          · exact .inr ⟨y, x, .inr h, by simpa [hp] using hd⟩
          · rw [hdisj y x hp] at h; cases h
      · rintro (h | ⟨y, x, h | h, hd⟩)
        · exact .inl (.inl h)
        · exact .inl (.inr ⟨y, x, h, hd⟩)
        · cases hp : pixelHits vx vy r b y x c
          · exact .inr ⟨y, x, h, by simpa [hp] using hd⟩
          · rw [hdisj y x hp] at h; cases h

/-- One sprite row: each cell under a 1 bit is XORed, `hit` says whether one of them was set (R161, R164). -/
theorem drawRow_spec (vx vy : Byte) (r : Nat) (b : Byte) (d : Drawing) :
    (∀ y x, (drawRow vx vy r b d).screen.cell y x = (d.screen.cell y x ^^ rowCovers vx vy r b y x)) ∧
    ((drawRow vx vy r b d).hit = true ↔
      d.hit = true ∨ ∃ y x, rowCovers vx vy r b y x = true ∧ d.screen.cell y x = true) :=
  foldl_drawPixel vx vy r b [0, 1, 2, 3, 4, 5, 6, 7] (by decide) (by decide) d

theorem rowCovers_row {vx vy : Byte} {r : Nat} {b : Byte} {y : Fin 32} {x : Fin 64}
    (h : rowCovers vx vy r b y x = true) : y = pixelRow vy r := by
  obtain ⟨c, -, hc⟩ := List.any_eq_true.mp h
  simp only [pixelHits, Bool.and_eq_true, decide_eq_true_eq] at hc
  exact hc.2.1

theorem rowsCover_row {vx vy : Byte} {r : Nat} {bs : List Byte} {y : Fin 32} {x : Fin 64}
    (h : rowsCover vx vy r bs y x = true) : ∃ k, k < bs.length ∧ y = pixelRow vy (r + k) := by
  induction bs generalizing r with
  | nil => cases h
  | cons b bs ih =>
    simp only [rowsCover, Bool.or_eq_true] at h
    obtain h | h := h
    · exact ⟨0, by simp, rowCovers_row h⟩
    · obtain ⟨k, hk, e⟩ := ih h
      exact ⟨k + 1, by simpa using hk, by rw [e]; congr 1; omega⟩

/-- Two rows of one sprite never land on the same cell: at most 15 rows, 15 ≤ 32 (R163). -/
theorem rowsCover_of_rowCovers {vx vy : Byte} {r : Nat} {b : Byte} {bs : List Byte} (hlen : bs.length < 32)
    {y : Fin 32} {x : Fin 64} (h : rowCovers vx vy r b y x = true) : rowsCover vx vy (r + 1) bs y x = false := by
  cases hc : rowsCover vx vy (r + 1) bs y x
  · rfl
  · obtain ⟨k, hk, e⟩ := rowsCover_row hc
    have e' := rowCovers_row h
    have : (pixelRow vy (r + 1 + k)).val = (pixelRow vy r).val := by rw [← e, ← e']
    simp only [pixelRow] at this
    omega

/-- A whole sprite of at most 31 rows: each cell under a 1 bit is XORed once, `hit` says whether one of them was set. -/
theorem drawRows_spec (vx vy : Byte) (r : Nat) (bs : List Byte) (hlen : bs.length < 32) (d : Drawing) :
    (∀ y x, (drawRows vx vy r bs d).screen.cell y x = (d.screen.cell y x ^^ rowsCover vx vy r bs y x)) ∧
    ((drawRows vx vy r bs d).hit = true ↔
      d.hit = true ∨ ∃ y x, rowsCover vx vy r bs y x = true ∧ d.screen.cell y x = true) := by
  induction bs generalizing r d with
  | nil => simp [drawRows, rowsCover]
  | cons b bs ih =>
    have hlen' : bs.length < 32 := by simp only [List.length_cons] at hlen; omega
    obtain ⟨rc, rh⟩ := drawRow_spec vx vy r b d
    obtain ⟨ihc, ihh⟩ := ih (r + 1) hlen' (drawRow vx vy r b d)
    constructor
    · intro y x
      simp only [drawRows, ihc, rc, rowsCover]
      cases hp : rowCovers vx vy r b y x
      · simp
      · simp [rowsCover_of_rowCovers hlen' hp]
    · simp only [drawRows, ihh, rh, rc, rowsCover, Bool.or_eq_true]
      constructor
      · rintro ((h | ⟨y, x, h, hd⟩) | ⟨y, x, h, hd⟩)
        · exact .inl h
        · exact .inr ⟨y, x, .inl h, hd⟩
        · cases hp : rowCovers vx vy r b y x
          · exact .inr ⟨y, x, .inr h, by simpa [hp] using hd⟩
          · rw [rowsCover_of_rowCovers hlen' hp] at h; cases h
      · rintro (h | ⟨y, x, h | h, hd⟩)
        · exact .inl (.inl h)
        · exact .inl (.inr ⟨y, x, h, hd⟩)
        · cases hp : rowCovers vx vy r b y x
          · exact .inr ⟨y, x, h, by simpa [hp] using hd⟩
          · rw [rowsCover_of_rowCovers hlen' hp] at h; cases h

@[simp] theorem Screen.cell_blankScreen (y : Fin 32) (x : Fin 64) : blankScreen.cell y x = false := by
  simp [blankScreen, Screen.cell]

end Sys2Proof.Machine
end

