-- ==== Sys2Proof/Laws/Operands.lean ====
section
/-! SUPPORT. The laws of the operand forms and of the flags, in natural numbers. -/

namespace Sys2Proof.Machine

theorem addrWord_toNat (nnn : Addr12) : (addrWord nnn).toNat = nnn.toNat := by
  have := nnn.isLt
  simp only [addrWord, BitVec.toNat_setWidth]
  omega

theorem byteWord_toNat (b : Byte) : (byteWord b).toNat = b.toNat := by
  have := b.isLt
  simp only [byteWord, BitVec.toNat_setWidth]
  omega

theorem glyphAddr_toNat (a : Byte) : (glyphAddr a).toNat = a.toNat * 5 := by
  have := a.isLt
  have h5 : (5 : Word).toNat = 5 := rfl
  simp only [glyphAddr, BitVec.toNat_mul, byteWord_toNat, h5]
  omega

theorem indexAfter_toNat (x : Reg) (s : State) : (indexAfter x s).toNat = (s.i.toNat + x.val + 1) % 65536 := by
  have := x.isLt
  simp only [indexAfter, BitVec.toNat_add, BitVec.toNat_ofNat]
  omega

@[simp] theorem length_regsUpTo (x : Reg) (s : State) : (regsUpTo x s).length = x.val + 1 := by
  have := x.isLt
  simp only [regsUpTo, List.length_take, Vector.length_toList]
  omega

theorem getElem_regsUpTo (x : Reg) (s : State) (k : Nat) (h : k < (regsUpTo x s).length) (hk : k < 16) :
    (regsUpTo x s)[k] = s.reg ⟨k, hk⟩ := by
  simp [regsUpTo, State.reg]

theorem getElem_regsLoaded (x : Reg) (s : State) (k : Reg) :
    (regsLoaded x s)[k] = if k ≤ x then Memory.read s.mem (s.i.toNat + k.val) else s.reg k := by
  simp [regsLoaded, State.reg]

@[simp] theorem length_bcdDigits (a : Byte) : (bcdDigits a).length = 3 := rfl

/-- Everything a key operand can be. -/
theorem keyOperand_cases (x : Reg) (s : State) :
    (∃ h : (s.reg x).toNat < 16, keyOperand x s = .ok ⟨(s.reg x).toNat, h⟩) ∨
      (16 ≤ (s.reg x).toNat ∧ keyOperand x s = .error (.addressError .keyIndex (s.reg x).toNat)) := by
  unfold keyOperand
  split
  · next h => exact .inl ⟨h, rfl⟩
  · next h => exact .inr ⟨by omega, rfl⟩

theorem carryFlag_iff (a b : Byte) : carryFlag a b = true ↔ 255 < a.toNat + b.toNat := by simp [carryFlag]

theorem greaterFlag_iff (a b : Byte) : greaterFlag a b = true ↔ b.toNat < a.toNat := by simp [greaterFlag]

theorem lowBitFlag_iff (a : Byte) : lowBitFlag a = true ↔ a.toNat % 2 = 1 := by
  simp [lowBitFlag, BitVec.getLsbD, Nat.testBit_zero]

theorem highBitFlag_iff (a : Byte) : highBitFlag a = true ↔ a.toNat / 128 = 1 := by
  have := a.isLt
  simp only [highBitFlag, BitVec.getLsbD, Nat.testBit, Nat.shiftRight_eq_div_pow]
  simp
  omega

theorem indexFlag_iff (i : Word) (a : Byte) : indexFlag i a = true ↔ 0x0FFF < i.toNat + a.toNat := by
  simp [indexFlag]

end Sys2Proof.Machine
end

