-- ==== Sys2Proof/Laws/PerInstr.lean ====
section
/-! SUPPORT. The family `MatchesRow`: the encoded word of every instruction matches the mask and the pattern of its own
row of the opcode table (30_encoding R65), one lemma per constructor. -/

namespace Sys2Proof.Laws.MatchesRow

open Sys2Proof

/-- The encoding of `i` is a word of `i`'s own row. -/
def Statement (i : Instr) : Prop := (rowOf i).accepts (encode i) = true

theorem and_nibbleMask (a : Nibble) : a &&& 15#4 = a := BitVec.and_allOnes

theorem and_byteMask (a : Byte) : a &&& 255#8 = a := BitVec.and_allOnes

/-- Format `A` words match a row whose mask is the family nibble. -/
theorem formatA_accepts (op : Nibble) (nnn : Addr12) (name : String) :
    Row.accepts ⟨name, 0xF000, op ++ 0x000#12⟩ (formatA op nnn) = true := by
  simp only [Row.accepts, formatA, beq_iff_eq]
  rw [show (0xF000 : Word) = 0xF#4 ++ 0x000#12 by decide, BitVec.and_append]
  simp [and_nibbleMask]

/-- Format `XI` words match a row whose mask is the family nibble. -/
theorem formatXI_accepts (op : Nibble) (x : Reg) (nn : Byte) (name : String) :
    Row.accepts ⟨name, 0xF000, (op ++ 0x0#4 : BitVec 8) ++ 0x00#8⟩ (formatXI op x nn) = true := by
  simp only [Row.accepts, formatXI, beq_iff_eq]
  rw [show (0xF000 : Word) = (0xF#4 ++ 0x0#4 : BitVec 8) ++ 0x00#8 by decide, BitVec.and_append, BitVec.and_append]
  simp [and_nibbleMask]

/-- Format `XS` words match a row whose mask is the family nibble and the low byte. -/
theorem formatXS_accepts (op : Nibble) (x : Reg) (nn : Byte) (name : String) :
    Row.accepts ⟨name, 0xF0FF, (op ++ 0x0#4 : BitVec 8) ++ nn⟩ (formatXI op x nn) = true := by
  simp only [Row.accepts, formatXI, beq_iff_eq]
  rw [show (0xF0FF : Word) = (0xF#4 ++ 0x0#4 : BitVec 8) ++ 0xFF#8 by decide, BitVec.and_append, BitVec.and_append]
  simp [and_nibbleMask, and_byteMask]

/-- Format `XY` words match a row whose mask is the family nibble and the low nibble. -/
theorem formatXY_accepts (op : Nibble) (x y : Reg) (n : Nibble) (name : String) :
    Row.accepts ⟨name, 0xF00F, (op ++ 0x0#4 : BitVec 8) ++ (0x0#4 ++ n : BitVec 8)⟩ (formatXYN op x y n) = true := by
  simp only [Row.accepts, formatXYN, beq_iff_eq]
  rw [show (0xF00F : Word) = (0xF#4 ++ 0x0#4 : BitVec 8) ++ (0x0#4 ++ 0xF#4 : BitVec 8) by decide,
    BitVec.and_append, BitVec.and_append, BitVec.and_append]
  simp [and_nibbleMask]

/-- Format `XYN` words match a row whose mask is the family nibble. -/
theorem formatXYN_accepts (op : Nibble) (x y : Reg) (n : Nibble) (name : String) :
    Row.accepts ⟨name, 0xF000, (op ++ 0x0#4 : BitVec 8) ++ (0x0#4 ++ 0x0#4 : BitVec 8)⟩ (formatXYN op x y n) = true := by
  simp only [Row.accepts, formatXYN, beq_iff_eq]
  rw [show (0xF000 : Word) = (0xF#4 ++ 0x0#4 : BitVec 8) ++ (0x0#4 ++ 0x0#4 : BitVec 8) by decide,
    BitVec.and_append, BitVec.and_append, BitVec.and_append]
  simp [and_nibbleMask]

theorem cls : Statement .cls := rfl
theorem ret : Statement .ret := rfl
theorem jp (nnn : Addr12) : Statement (.jp nnn) := formatA_accepts 0x1 nnn _
theorem call (nnn : Addr12) : Statement (.call nnn) := formatA_accepts 0x2 nnn _
theorem seImm (x : Reg) (nn : Byte) : Statement (.seImm x nn) := formatXI_accepts 0x3 x nn _
theorem sneImm (x : Reg) (nn : Byte) : Statement (.sneImm x nn) := formatXI_accepts 0x4 x nn _
theorem seReg (x y : Reg) : Statement (.seReg x y) := formatXY_accepts 0x5 x y 0x0 _
theorem ldImm (x : Reg) (nn : Byte) : Statement (.ldImm x nn) := formatXI_accepts 0x6 x nn _
theorem addImm (x : Reg) (nn : Byte) : Statement (.addImm x nn) := formatXI_accepts 0x7 x nn _
theorem ldReg (x y : Reg) : Statement (.ldReg x y) := formatXY_accepts 0x8 x y 0x0 _
theorem orReg (x y : Reg) : Statement (.orReg x y) := formatXY_accepts 0x8 x y 0x1 _
theorem andReg (x y : Reg) : Statement (.andReg x y) := formatXY_accepts 0x8 x y 0x2 _
theorem xorReg (x y : Reg) : Statement (.xorReg x y) := formatXY_accepts 0x8 x y 0x3 _
theorem addReg (x y : Reg) : Statement (.addReg x y) := formatXY_accepts 0x8 x y 0x4 _
theorem subReg (x y : Reg) : Statement (.subReg x y) := formatXY_accepts 0x8 x y 0x5 _
theorem shr (x : Reg) : Statement (.shr x) := formatXY_accepts 0x8 x 0 0x6 _
theorem subnReg (x y : Reg) : Statement (.subnReg x y) := formatXY_accepts 0x8 x y 0x7 _
theorem shl (x : Reg) : Statement (.shl x) := formatXY_accepts 0x8 x 0 0xE _
theorem sneReg (x y : Reg) : Statement (.sneReg x y) := formatXY_accepts 0x9 x y 0x0 _
theorem ldI (nnn : Addr12) : Statement (.ldI nnn) := formatA_accepts 0xA nnn _
theorem jpV0 (nnn : Addr12) : Statement (.jpV0 nnn) := formatA_accepts 0xB nnn _
theorem rnd (x : Reg) (nn : Byte) : Statement (.rnd x nn) := formatXI_accepts 0xC x nn _
theorem drw (x y : Reg) (n : Nibble) : Statement (.drw x y n) := formatXYN_accepts 0xD x y n _
theorem skp (x : Reg) : Statement (.skp x) := formatXS_accepts 0xE x 0x9E _
theorem sknp (x : Reg) : Statement (.sknp x) := formatXS_accepts 0xE x 0xA1 _
theorem ldVxDT (x : Reg) : Statement (.ldVxDT x) := formatXS_accepts 0xF x 0x07 _
theorem ldVxK (x : Reg) : Statement (.ldVxK x) := formatXS_accepts 0xF x 0x0A _
theorem ldDTVx (x : Reg) : Statement (.ldDTVx x) := formatXS_accepts 0xF x 0x15 _
theorem ldSTVx (x : Reg) : Statement (.ldSTVx x) := formatXS_accepts 0xF x 0x18 _
theorem addIVx (x : Reg) : Statement (.addIVx x) := formatXS_accepts 0xF x 0x1E _
theorem ldF (x : Reg) : Statement (.ldF x) := formatXS_accepts 0xF x 0x29 _
theorem ldB (x : Reg) : Statement (.ldB x) := formatXS_accepts 0xF x 0x33 _
theorem storeRegs (x : Reg) : Statement (.storeRegs x) := formatXS_accepts 0xF x 0x55 _
theorem loadRegs (x : Reg) : Statement (.loadRegs x) := formatXS_accepts 0xF x 0x65 _

end Sys2Proof.Laws.MatchesRow
end

