-- ==== Sys2Proof/Laws/Step.lean ====
section
/-! SUPPORT. What a step can do, said once (40_step_cycle R80 to R85). -/

namespace Sys2Proof.Machine

theorem step_of_wait {s : State} {r : Reg} (h : s.mode = .wait r) : step s = .next s := by
  simp [step, cycle, h]

theorem step_of_halt {s : State} (h : s.mode = .halt) : step s = .next s := by
  simp [step, cycle, h]

theorem step_of_odd {s : State} (hm : s.mode = .run) (h : s.pc.toNat % 2 = 1) :
    step s = .next (s.tick.halted (.addressError .fetchMisaligned s.pc.toNat)) := by
  have hf : fetch s.tick = .error (.addressError .fetchMisaligned s.pc.toNat) := fetch_of_odd (s := s.tick) h
  simp [step, cycle, hm, runInstr, hf, takeFault]

theorem step_of_oob {s : State} (hm : s.mode = .run) (h : s.pc.toNat % 2 = 0) (h' : 4095 ≤ s.pc.toNat) :
    step s = .next (s.tick.halted (.addressError .fetchOob s.pc.toNat)) := by
  have hf : fetch s.tick = .error (.addressError .fetchOob s.pc.toNat) := fetch_of_oob (s := s.tick) h h'
  simp [step, cycle, hm, runInstr, hf, takeFault]

theorem step_of_fetchable {s : State} (hm : s.mode = .run) (h : Fetchable s.pc) :
    step s = decodeAndExec
      (joinBytes (Memory.read s.mem s.pc.toNat) (Memory.read s.mem (s.pc.toNat + 1))) s.tick := by
  have hf : fetch s.tick = .ok (joinBytes (Memory.read s.mem s.pc.toNat) (Memory.read s.mem (s.pc.toNat + 1))) :=
    fetch_of_fetchable (s := s.tick) h.1 h.2
  simp [step, cycle, hm, runInstr, hf]

theorem step_of_fetches {s : State} {i : Instr} (hm : s.mode = .run) (h : Fetches s i) : step s = exec i s.tick := by
  rw [step_of_fetchable hm h.1, decodeAndExec, h.2]

/-- Everything a step can do: hold still, fault in the fetch, fault in the decode, or run one instruction. -/
theorem step_cases (s : State) :
    (s.mode ≠ .run ∧ step s = .next s) ∨
      (s.mode = .run ∧ ¬ Fetchable s.pc ∧
        ∃ k, (k = .fetchMisaligned ∨ k = .fetchOob) ∧
          step s = .next (s.tick.halted (.addressError k s.pc.toNat))) ∨
      (s.mode = .run ∧ Fetchable s.pc ∧ (∀ i, ¬ Fetches s i) ∧
        ∃ w, step s = .next (s.tick.halted (.decodeError w))) ∨
      (s.mode = .run ∧ ∃ i, Fetches s i ∧ step s = exec i s.tick) := by
  cases hm : s.mode with
  | wait r => exact .inl ⟨by simp, step_of_wait hm⟩
  | halt => exact .inl ⟨by simp, step_of_halt hm⟩
  | run =>
    right
    by_cases hodd : s.pc.toNat % 2 = 1
    · exact .inl ⟨rfl, fun h => by have := h.1; omega, _, .inl rfl, step_of_odd hm hodd⟩
    · by_cases hoob : 4095 ≤ s.pc.toNat
      · exact .inl ⟨rfl, fun h => by have := h.2; omega, _, .inr rfl, step_of_oob hm (by omega) hoob⟩
      · right
        have hf : Fetchable s.pc := ⟨by omega, by omega⟩
        have hstep := step_of_fetchable hm hf
        cases hd : decodeWord (joinBytes (Memory.read s.mem s.pc.toNat) (Memory.read s.mem (s.pc.toNat + 1))) with
        | ok i => exact .inr ⟨rfl, i, ⟨hf, hd⟩, step_of_fetches hm ⟨hf, hd⟩⟩
        | error e =>
          refine .inl ⟨rfl, hf, fun i h => ?_, _, by rw [hstep, decodeAndExec, hd]; rfl⟩
          have := h.2
          rw [hd] at this
          cases this

end Sys2Proof.Machine
end

