-- ==== Sys2Proof/Tests/Slice0.lean ====
section
/-! SUPPORT. The model's own tests: well-formedness, one word of every row decoded, vectors of 95_test_vectors.md (their
ids stand in the comments), and for every statement with hypotheses a state that meets them. -/

namespace Sys2Proof.Tests

open Sys2Proof Sys2Proof.Machine Sys2Proof.Claims

/-! ### Helpers -/

/-- The reset state with one word at 0x200. -/
def start (w : Nat) : State := State.reset.withFetchWord 16 w

/-- Some registers given. -/
def withRegs (s : State) (rs : List (Reg × Byte)) : State := rs.foldl (fun t r => t.setReg r.1 r.2) s

/-- Some bytes of memory given from an address up. -/
def withBytes (s : State) (a : Nat) (bs : List Byte) : State := { s with mem := Memory.writeRange s.mem a bs }

/-- The next state, if the result is one. -/
def next? : Result → Option State
  | .next s => some s
  | _ => none

/-- What a reader sees of one step's next state. -/
def after {α : Type} (s : State) (f : State → α) : Option α := (next? (step s)).map f

/-- The cells at some (column, row) places. -/
def cellsAt (f : Screen) (ps : List (Fin 64 × Fin 32)) : List Bool := ps.map fun p => f.cell p.2 p.1

/-! ### Well-formedness refuses what is ill formed (R67, R242) -/

theorem test_legalWord_refuses_5001 : legalWord 0x5001 = false := by decide
theorem test_legalWord_refuses_0123 : legalWord 0x0123 = false := by decide
theorem test_legalWord_refuses_F085 : legalWord 0xF085 = false := by decide
theorem test_legalWord_accepts_D125 : legalWord 0xD125 = true := by decide
theorem test_imageFits_refuses_3585 : imageFits (List.replicate 3585 0) = false := by
  unfold imageFits
  rw [List.length_replicate]
  decide
theorem test_imageFits_accepts_3584 : imageFits (List.replicate 3584 0) = true := by
  unfold imageFits
  rw [List.length_replicate]
  decide
theorem test_table_has_34_rows : opcodeRows.length = 34 := by decide

/-! ### One word of every row, bit by bit from the encoding strings of the table (R65) -/

theorem test_decode_cls : decodeWord 0b0000000011100000 = .ok .cls := by decide
theorem test_decode_ret : decodeWord 0b0000000011101110 = .ok .ret := by decide
theorem test_decode_jp : decodeWord 0b0001101010111100 = .ok (.jp 0xABC) := by decide
theorem test_decode_call : decodeWord 0b0010001100000000 = .ok (.call 0x300) := by decide
theorem test_decode_seImm : decodeWord 0b0011001100101010 = .ok (.seImm 3 0x2A) := by decide
theorem test_decode_sneImm : decodeWord 0b0100101001000010 = .ok (.sneImm 10 0x42) := by decide
theorem test_decode_seReg : decodeWord 0b0101000100100000 = .ok (.seReg 1 2) := by decide
theorem test_decode_ldImm : decodeWord 0b0110101001111111 = .ok (.ldImm 10 0x7F) := by decide
theorem test_decode_addImm : decodeWord 0b0111000000000011 = .ok (.addImm 0 3) := by decide
theorem test_decode_ldReg : decodeWord 0b1000000100100000 = .ok (.ldReg 1 2) := by decide
theorem test_decode_orReg : decodeWord 0b1000000100100001 = .ok (.orReg 1 2) := by decide
theorem test_decode_andReg : decodeWord 0b1000000100100010 = .ok (.andReg 1 2) := by decide
theorem test_decode_xorReg : decodeWord 0b1000000100100011 = .ok (.xorReg 1 2) := by decide
theorem test_decode_addReg : decodeWord 0b1000000000010100 = .ok (.addReg 0 1) := by decide
theorem test_decode_subReg : decodeWord 0b1000000100100101 = .ok (.subReg 1 2) := by decide
theorem test_decode_shr : decodeWord 0b1000001110010110 = .ok (.shr 3) := by decide
theorem test_decode_subnReg : decodeWord 0b1000000100100111 = .ok (.subnReg 1 2) := by decide
theorem test_decode_shl : decodeWord 0b1000001110011110 = .ok (.shl 3) := by decide
theorem test_decode_sneReg : decodeWord 0b1001000100100000 = .ok (.sneReg 1 2) := by decide
theorem test_decode_ldI : decodeWord 0b1010001011110000 = .ok (.ldI 0x2F0) := by decide
theorem test_decode_jpV0 : decodeWord 0b1011001100000000 = .ok (.jpV0 0x300) := by decide
theorem test_decode_rnd : decodeWord 0b1100000100001111 = .ok (.rnd 1 0x0F) := by decide
theorem test_decode_drw : decodeWord 0b1101000100100101 = .ok (.drw 1 2 5) := by decide
theorem test_decode_skp : decodeWord 0b1110010110011110 = .ok (.skp 5) := by decide
theorem test_decode_sknp : decodeWord 0b1110010110100001 = .ok (.sknp 5) := by decide
theorem test_decode_ldVxDT : decodeWord 0b1111001100000111 = .ok (.ldVxDT 3) := by decide
theorem test_decode_ldVxK : decodeWord 0b1111001000001010 = .ok (.ldVxK 2) := by decide
theorem test_decode_ldDTVx : decodeWord 0b1111001100010101 = .ok (.ldDTVx 3) := by decide
theorem test_decode_ldSTVx : decodeWord 0b1111001100011000 = .ok (.ldSTVx 3) := by decide
theorem test_decode_addIVx : decodeWord 0b1111001000011110 = .ok (.addIVx 2) := by decide
theorem test_decode_ldF : decodeWord 0b1111000000101001 = .ok (.ldF 0) := by decide
theorem test_decode_ldB : decodeWord 0b1111010000110011 = .ok (.ldB 4) := by decide
theorem test_decode_storeRegs : decodeWord 0b1111001001010101 = .ok (.storeRegs 2) := by decide
theorem test_decode_loadRegs : decodeWord 0b1111001001100101 = .ok (.loadRegs 2) := by decide
theorem test_decode_illegal_words :
    [0x0000, 0x00E1, 0x00EF, 0x00FF, 0x0123, 0x5001, 0x500F, 0x9001, 0x8008, 0x800D, 0x800F, 0xE000, 0xE09F, 0xE1A2, 0xF000,
      0xF01F, 0xF030, 0xF075, 0xF085, 0xFFFF].all (fun w => decodeTableWord 16 w == none) = true := by decide
theorem test_decodeBytes_rest : decodeBytes [0x6A, 0x7F, 0x12] = .ok (.ldImm 10 0x7F, [0x12]) := by decide
theorem test_decodeBytes_truncated : decodeBytes [0x6A] = .error .truncated := by decide

/-! ### Control flow (CF1 to CF20) -/

/-- CF1 -/
theorem test_jp : after (start 0x1ABC) (·.pc) = some 0xABC := by decide
/-- CF4 -/
theorem test_call : (next? (exec (.call 0x300) { State.reset with pc := 0x246, sp := 3 })).map
    (fun t => (t.pc, t.sp, t.stack[3])) = some (0x300, 4, 0x246) := by decide
/-- CF5 -/
theorem test_call_overflow : after { start 0x2300 with sp := 16 } (fun t => (t.mode, t.fault, t.pc, t.sp)) =
    some (.halt, some ⟨.stackError .overflow, 0x200⟩, 0x200, 16) := by decide
/-- CF6 -/
theorem test_ret : (next? (exec .ret { State.reset with pc := 0x300, sp := 1, stack := State.reset.stack.set 0 0x204 })).map
    (fun t => (t.pc, t.sp)) = some (0x206, 0) := by decide
/-- CF7 -/
theorem test_ret_underflow : after (start 0x00EE) (fun t => (t.mode, t.fault, t.pc, t.sp)) =
    some (.halt, some ⟨.stackError .underflow, 0x200⟩, 0x200, 0) := by decide
/-- CF10 -/
theorem test_jpV0_not_masked : after (withRegs (start 0xBFFF) [(0, 0xFF)]) (·.pc) = some 0x10FE := by decide
/-- S7 -/
theorem test_seImm : after (withRegs (start 0x3A42) [(10, 0x42)]) (·.pc) = some 0x204 := by decide
theorem test_seImm_not : after (withRegs (start 0x3A42) [(10, 0x43)]) (·.pc) = some 0x202 := by decide
/-- CF12, CF13 -/
theorem test_sneImm_not : after (withRegs (start 0x4A42) [(10, 0x42)]) (·.pc) = some 0x202 := by decide
theorem test_sneImm : after (withRegs (start 0x4A42) [(10, 0x43)]) (·.pc) = some 0x204 := by decide
/-- CF14, CF15 -/
theorem test_seReg : after (withRegs (start 0x5120) [(1, 7), (2, 7)]) (·.pc) = some 0x204 := by decide
theorem test_seReg_not : after (withRegs (start 0x5120) [(1, 7), (2, 8)]) (·.pc) = some 0x202 := by decide
/-- CF17, CF18 -/
theorem test_sneReg_not : after (withRegs (start 0x9120) [(1, 7), (2, 7)]) (·.pc) = some 0x202 := by decide
theorem test_sneReg : after (withRegs (start 0x9120) [(1, 7), (2, 8)]) (·.pc) = some 0x204 := by decide

/-! ### Arithmetic and logic (AL1 to AL32, R134) -/

/-- AL1 -/
theorem test_ldImm_vf : after (start 0x6FFF) (fun t => (t.reg 15, t.pc)) = some (0xFF, 0x202) := by decide
/-- AL2 -/
theorem test_addImm_wraps : after (withRegs (start 0x7003) [(0, 0xFE), (15, 1)]) (fun t => (t.reg 0, t.reg 15)) =
    some (0x01, 1) := by decide
/-- AL5 -/
theorem test_ldReg : after (withRegs (start 0x8120) [(2, 0x33)]) (·.reg 1) = some 0x33 := by decide
/-- AL6 -/
theorem test_orReg : after (withRegs (start 0x8121) [(1, 0xF0), (2, 0x0F), (15, 1)]) (fun t => (t.reg 1, t.reg 15)) =
    some (0xFF, 1) := by decide
/-- AL7 -/
theorem test_andReg : after (withRegs (start 0x8122) [(1, 0xF0), (2, 0x3C), (15, 1)]) (fun t => (t.reg 1, t.reg 15)) =
    some (0x30, 1) := by decide
/-- AL8 -/
theorem test_xorReg : after (withRegs (start 0x8123) [(1, 0xF0), (2, 0x3C), (15, 1)]) (fun t => (t.reg 1, t.reg 15)) =
    some (0xCC, 1) := by decide
/-- AL10 -/
theorem test_addReg_256 : after (withRegs (start 0x8014) [(0, 0x80), (1, 0x80)]) (fun t => (t.reg 0, t.reg 15)) =
    some (0x00, 1) := by decide
/-- R134: `81F4` -/
theorem test_addReg_reads_old_vf : after (withRegs (start 0x81F4) [(1, 0xF0), (15, 3)]) (fun t => (t.reg 1, t.reg 15)) =
    some (0xF3, 0) := by decide
/-- S3 -/
theorem test_subReg : after (withRegs (start 0x8125) [(1, 0x05), (2, 0x0A)]) (fun t => (t.reg 1, t.reg 15)) =
    some (0xFB, 0) := by decide
/-- AL14: equal operands give flag 0 -/
theorem test_subReg_equal : after (withRegs (start 0x8125) [(1, 7), (2, 7), (15, 1)]) (fun t => (t.reg 1, t.reg 15)) =
    some (0, 0) := by decide
/-- AL17 -/
theorem test_subnReg : after (withRegs (start 0x8127) [(1, 0x05), (2, 0x0A)]) (fun t => (t.reg 1, t.reg 15)) =
    some (0x05, 1) := by decide
/-- AL27: the flag overwrites the result in VF -/
theorem test_subnReg_vf : after (withRegs (start 0x8F17) [(1, 0xF0), (15, 3)]) (·.reg 15) = some 1 := by decide
/-- AL22 -/
theorem test_shr_ignores_y : after (withRegs (start 0x8396) [(3, 0xFF)]) (fun t => (t.reg 3, t.reg 15, t.reg 9)) =
    some (0x7F, 1, 0) := by decide
/-- AL24 -/
theorem test_shl : after (withRegs (start 0x830E) [(3, 0x81)]) (fun t => (t.reg 3, t.reg 15)) = some (0x02, 1) := by decide
/-- AL30: a mask of 0 gives 0 whatever the byte drawn -/
theorem test_rnd_mask_zero : (next? (exec (.rnd 1 0) (withRegs State.reset [(1, 9)]))).map (fun t => (t.reg 1, t.draws)) =
    some (0, 1) := by
  have h : randomDraw (withRegs State.reset [(1, 9)]) &&& 0 = 0 := BitVec.and_zero
  simp only [exec, execRnd, resultTo, h, next?, Option.map]
  decide

/-! ### Index and memory (IM1 to IM31) -/

/-- IM1 -/
theorem test_ldI : after (start 0xAFFF) (·.i) = some 0x0FFF := by decide
/-- IM5 -/
theorem test_addIVx_wraps : after (withRegs { start 0xF11E with i := 0xFFFF } [(1, 2)]) (fun t => (t.i, t.reg 15)) =
    some (0x0001, 1) := by decide
/-- IM6 -/
theorem test_addIVx_vf : after (withRegs { start 0xFF1E with i := 0x010 } [(15, 5)]) (fun t => (t.i, t.reg 15)) =
    some (0x015, 0) := by decide
/-- IM19 -/
theorem test_ldF_not_masked : after (withRegs (start 0xF029) [(0, 0xFF)]) (·.i) = some 0x4FB := by decide
/-- IM24 -/
theorem test_ldB_top : after (withRegs { start 0xF033 with i := 0xFFD } [(0, 123)])
    (fun t => (Memory.readRange t.mem 0xFFD 3, t.i)) = some ([1, 2, 3], 0xFFD) := by decide
/-- IM25 -/
theorem test_ldB_oob : after (withRegs { start 0xF033 with i := 0xFFE } [(0, 123)])
    (fun t => (Memory.readRange t.mem 0xFFE 2, t.fault)) =
    some ([0, 0], some ⟨.addressError .dataOob 0x1000, 0x200⟩) := by decide
/-- IM7 -/
theorem test_storeRegs : after (withRegs { start 0xF255 with i := 0x300 } [(0, 0x11), (1, 0x22), (2, 0x33), (3, 0x44)])
    (fun t => (Memory.readRange t.mem 0x300 4, t.i)) = some ([0x11, 0x22, 0x33, 0], 0x303) := by decide
/-- IM30 -/
theorem test_storeRegs_font : after (withRegs { start 0xF155 with i := 0x04F } [(0, 1), (1, 2)])
    (fun t => (Memory.readRange t.mem 0x04F 2, t.fault)) =
    some ([0x80, 0], some ⟨.addressError .fontWrite 0x04F, 0x200⟩) := by decide
/-- IM10 -/
theorem test_loadRegs : after (withBytes (withRegs { start 0xF265 with i := 0x300 } [(3, 0x77)]) 0x300 [0xAA, 0xBB, 0xCC, 0xDD])
    (fun t => (t.reg 0, t.reg 1, t.reg 2, t.reg 3, t.i)) = some (0xAA, 0xBB, 0xCC, 0x77, 0x303) := by decide
/-- IM13 -/
theorem test_loadRegs_oob : after (withRegs { start 0xF165 with i := 0xFFF } [(0, 5)]) (fun t => (t.reg 0, t.fault)) =
    some (5, some ⟨.addressError .dataOob 0x1000, 0x200⟩) := by decide

/-! ### Display (DV1 to DV18) -/

/-- DV1 -/
theorem test_cls : (next? (exec .cls { State.reset with fb := (State.reset.fb.toggle 0 0).toggle 31 63 })).map
    (fun t => (cellsAt t.fb [(0, 0), (63, 31)], t.rd)) = some ([false, false], true) := by decide
/-- R167: the glyph of 3 drawn at (62, 30) wraps on both axes -/
theorem test_drw_wraps : (next? (exec (.drw 1 2 5) (withRegs { State.reset with i := 0x00F } [(1, 62), (2, 30)]))).map
    (fun t => (cellsAt t.fb [(61, 30), (62, 30), (63, 30), (0, 30), (1, 30), (2, 30), (62, 31), (1, 31), (62, 0), (1, 1)],
      t.reg 15, t.rd)) =
    some ([false, true, true, true, true, false, false, true, true, true], 0, true) := by decide
/-- DV10 -/
theorem test_drw_collision : (next? (exec (.drw 0 1 1)
    (withBytes { State.reset with i := 0x300, fb := State.reset.fb.toggle 0 0 } 0x300 [0xC0]))).map
    (fun t => (cellsAt t.fb [(0, 0), (1, 0), (2, 0)], t.reg 15)) = some ([false, true, false], 1) := by decide

/-! ### Timers, keypad and faults (TK1 to TK16, FV1 to FV7) -/

/-- TK7, TK12 -/
theorem test_skp : after (withRegs { start 0xE19E with keys := State.reset.keys.set 5 true } [(1, 5)]) (·.pc) =
    some 0x204 := by decide
theorem test_skp_bad_key : after (withRegs (start 0xE19E) [(1, 0x10)]) (fun t => (t.pc, t.fault)) =
    some (0x200, some ⟨.addressError .keyIndex 0x10, 0x200⟩) := by decide
/-- TK9, TK10 -/
theorem test_sknp_pressed : after (withRegs { start 0xE1A1 with keys := State.reset.keys.set 5 true } [(1, 5)]) (·.pc) =
    some 0x202 := by decide
theorem test_sknp : after (withRegs (start 0xE1A1) [(1, 5)]) (·.pc) = some 0x204 := by decide
/-- TK1 -/
theorem test_ldVxDT : after { start 0xF107 with dt := 5 } (fun t => (t.dt, t.reg 1)) = some (4, 4) := by decide
/-- TK4 -/
theorem test_ldDTVx : after (withRegs { start 0xF115 with dt := 9 } [(1, 0x3C)]) (·.dt) = some 0x3C := by decide
/-- TK5 -/
theorem test_ldSTVx : after (withRegs { start 0xF118 with st := 9 } [(1, 0x3C)]) (·.st) = some 0x3C := by decide
/-- TK14 -/
theorem test_ldVxK : after { start 0xF30A with dt := 5, st := 2, keys := State.reset.keys.set 4 true }
    (fun t => (t.mode, t.pc, t.dt, t.st, t.reg 3)) = some (.wait 3, 0x200, 4, 1, 0) := by decide
/-- TK14b, TK14e: a held key does not complete the wait, a new key-down does -/
theorem test_setKey_held : (setKey 4 true { State.reset with mode := .wait 3, keys := State.reset.keys.set 4 true }).mode =
    .wait 3 := by decide
theorem test_setKey_completes : (fun t : State => (t.reg 3, t.pc, t.mode, t.key 4))
    (setKey 4 true { State.reset with mode := .wait 3 }) = (4, 0x202, .run, true) := by decide
/-- DecodeError keeps the tick -/
theorem test_illegal_word : after { start 0x5001 with dt := 2 } (fun t => (t.mode, t.fault, t.pc, t.dt)) =
    some (.halt, some ⟨.decodeError 0x5001, 0x200⟩, 0x200, 1) := by decide
/-- FV1, FV2 -/
theorem test_fetch_misaligned : after (withBytes { State.reset with pc := 0x201 } 0x201 [0x50, 0x01]) (·.fault) =
    some (some ⟨.addressError .fetchMisaligned 0x201, 0x201⟩) := by decide
theorem test_fetch_oob : after { State.reset with pc := 0x1000 } (·.fault) =
    some (some ⟨.addressError .fetchOob 0x1000, 0x1000⟩) := by decide
/-- HV1 -/
theorem test_takeFrame : (fun r : Vector Bool 2048 × State => (r.1[259], r.1[258], r.2.rd))
    (takeFrame { State.reset with rd := true, fb := State.reset.fb.toggle 4 3 }) = (true, false, false) := by
  simp only [takeFrame, frameOf, Vector.getElem_ofFn]
  decide
/-- The reset vector -/
theorem test_reset_image : (fun s : State => (Memory.readRange s.mem 0x04B 6, Memory.readRange s.mem 0x1FF 4, s.pc))
    (resetWith [0x12, 0x00]) = ([0xF0, 0x80, 0xF0, 0x80, 0x80, 0], [0, 0x12, 0, 0], 0x200) := by decide
/-- FV7 -/
theorem test_load_error : (fun s : State => (s.mode, s.fault, s.mem)) (resetWith (List.replicate 3585 1)) =
    (.halt, some ⟨.loadError 3585, 0x200⟩, []) := by
  have h : ¬ (List.replicate 3585 (1 : Byte)).length ≤ Config.progMax := by
    rw [List.length_replicate]
    decide
  rw [resetWith, if_neg h, List.length_replicate]
  decide
/-- A write of the byte that stands there anyway lists nothing. -/
theorem test_memory_canonical : Memory.write (Memory.write [] 0x300 7) 0x300 0 = [] ∧
    Memory.write [(0x300, 7)] 0x250 9 = [(0x250, 9), (0x300, 7)] := by decide

/-! ### States that meet the hypotheses of the statements -/

theorem start_fetches {w : Nat} {i : Instr} (h : decodeWord (joinBytes (Memory.read (start w).mem 0x200)
    (Memory.read (start w).mem 0x201)) = .ok i) : Fetches (start w) i :=
  ⟨⟨by show (0x200 : Word).toNat % 2 = 0; decide, by show (0x200 : Word).toNat ≤ 0x0FFE; decide⟩, h⟩

theorem witness_StepRunsFetchedInstruction : (start 0x6A7F).mode = .run ∧ Fetches (start 0x6A7F) (.ldImm 10 0x7F) :=
  ⟨rfl, start_fetches (by decide)⟩
theorem witness_BadFetchHalts_odd : (fun s : State => s.mode = .run ∧ s.pc.toNat % 2 = 1 ∧ 4096 ≤ s.pc.toNat + 1)
    { State.reset with pc := 0x0FFF } := by decide
theorem witness_BadFetchHalts_oob : (fun s : State => s.mode = .run ∧ s.pc.toNat % 2 = 0 ∧ 4096 ≤ s.pc.toNat + 1)
    { State.reset with pc := 0x1000 } := by decide
theorem witness_IllegalWordHalts : (start 0x5001).mode = .run ∧ Fetchable (start 0x5001).pc ∧
    joinBytes (Memory.read (start 0x5001).mem (start 0x5001).pc.toNat)
      (Memory.read (start 0x5001).mem ((start 0x5001).pc.toNat + 1)) = 0x5001 ∧ legalWord 0x5001 = false :=
  ⟨rfl, ⟨by decide, by decide⟩, by decide, by decide⟩
theorem witness_WaitAndHaltHoldStill : (State.reset.enterWait 3).mode ≠ .run ∧
    (State.reset.halted (.decodeError 0)).mode ≠ .run := by decide
theorem witness_EveryRunStepTicks : (start 0x1200).mode = .run ∧ ∃ t, step (start 0x1200) = .next t := ⟨rfl, _, rfl⟩
theorem witness_EveryRunStepTicks_sets : Fetches (start 0xF115) (.ldDTVx 1) ∧ Fetches (start 0xF118) (.ldSTVx 1) :=
  ⟨start_fetches (by decide), start_fetches (by decide)⟩
theorem witness_StepNeverStopsWithLegalStackPointer : (fun s : State => s.sp.toNat ≤ 16) { start 0x2300 with sp := 16 } := by
  decide
theorem witness_ModeTransitionsOfAStep : ∃ t, step (start 0xF30A) = .next t ∧ t.mode = .wait 3 := ⟨_, rfl, rfl⟩
theorem witness_ModeTransitionsOfAStep_still : (State.reset.enterWait 3).mode ≠ .run ∧
    ∃ t, step (State.reset.enterWait 3) = .next t := ⟨by decide, _, rfl⟩
theorem witness_EncodeOfDecode : decodeWord 0x8396 = .ok (.shr 3) ∧ decodeWord 0xF255 = .ok (.storeRegs 2) := by decide
theorem witness_TableRowsNeverOverlap : rowOf .cls ∈ opcodeRows ∧ (rowOf .cls).accepts 0x00E0 = true := by decide
theorem witness_ShiftsIgnoreTheYField : (9 : Reg) ≠ 3 ∧ (9 : Reg) ≠ 15 ∧ decodeWord 0x8396 = decodeWord 0x8306 := by decide
theorem witness_ImageIsLoadedVerbatim : imageFits [0x12, 0x00] = true ∧ imageFits (List.replicate 3584 0) = true :=
  ⟨by decide, test_imageFits_accepts_3584⟩
theorem witness_OversizeImageIsLoadError : 3584 < (List.replicate 3585 (0 : Byte)).length ∧
    (List.replicate 3584 (0 : Byte)).length ≤ 3584 := by
  rw [List.length_replicate, List.length_replicate]
  decide
theorem witness_reset_inv : State.reset.Inv where
  memWf := by decide
  memRam := by decide
  spBound := by decide
  stackLive := fun _ h => absurd h (by simp [State.reset])
  pcBound := by decide
  faultHalt := by decide
  waitPc := fun _ h => absurd h (by simp [State.reset])
  faultPc := fun _ h => absurd h (by simp [State.reset])
theorem witness_StepKeepsTheInvariant : State.reset.Inv ∧ ∃ t, step State.reset = .next t :=
  ⟨witness_reset_inv, _, rfl⟩
theorem witness_StepNeverChangesTheFont : ∃ t, step (start 0xF255) = .next t := ⟨_, rfl⟩
theorem witness_InstructionsWriteOnlyWhatTheyOwn : (∃ t, exec (.addReg 1 2) State.reset = .next t) ∧
    mayWriteReg (.addReg 1 2) 2 = false ∧ mayWriteIndex (.addReg 1 2) = false ∧ mayWriteMemory (.addReg 1 2) = false ∧
    mayWriteScreen (.addReg 1 2) = false ∧ usesStack (.addReg 1 2) = false := ⟨⟨_, rfl⟩, by decide⟩
theorem witness_JumpGoesToItsAddress : State.reset.mode = .run ∧ (0xFFF : Addr12).toNat % 2 = 1 ∧
    (0xFFE : Addr12).toNat % 2 = 0 := by decide
theorem witness_JumpWithOffsetAddsV0 :
    (next? (exec (.jpV0 0xFFE) (withRegs State.reset [(0, 2)]))).map (·.pc) = some 0x1000 ∧
    (next? (exec (.jpV0 0xFFF) (withRegs State.reset [(0, 0xFE)]))).map (·.pc) = some 0x10FD := by decide
theorem witness_CallPushesItsOwnAddress : (fun s : State => s.sp.toNat < 16) { State.reset with sp := 15 } := by decide
theorem witness_ReturnResumesAfterTheCall : (fun s : State => 0 < s.sp.toNat ∧ s.sp.toNat ≤ 16) { State.reset with sp := 1 } ∧
    (fun s : State => 0 < s.sp.toNat ∧ s.sp.toNat ≤ 16) { State.reset with sp := 16 } := by decide
theorem witness_StackErrorsHalt : (fun s : State => s.sp = 16) { State.reset with sp := 16 } ∧ State.reset.sp = 0 := by decide
theorem witness_CallThenReturnRoundTrip : (withBytes (start 0x2300) 0x300 [0x00, 0xEE]).mode = .run ∧
    (withBytes (start 0x2300) 0x300 [0x00, 0xEE]).sp.toNat < 16 ∧
    Fetches (withBytes (start 0x2300) 0x300 [0x00, 0xEE]) (.call 0x300) ∧
    Memory.read (withBytes (start 0x2300) 0x300 [0x00, 0xEE]).mem 0x300 = 0x00 ∧
    Memory.read (withBytes (start 0x2300) 0x300 [0x00, 0xEE]).mem 0x301 = 0xEE :=
  ⟨rfl, by decide, ⟨⟨by decide, by decide⟩, by decide⟩, by decide, by decide⟩
theorem witness_RegisterSkips : (1 : Nibble) ≠ 0 := by decide
theorem witness_BcdStoresThreeDigits :
    (fun s : State => Memory.wf s.mem = true ∧ 0x050 ≤ s.i.toNat ∧ s.i.toNat + 2 ≤ 0xFFF) { State.reset with i := 0x050 } ∧
    (fun s : State => Memory.wf s.mem = true ∧ 0x050 ≤ s.i.toNat ∧ s.i.toNat + 2 ≤ 0xFFF) { State.reset with i := 0xFFD } := by
  decide
theorem witness_StoreRegistersInclusive :
    (fun s : State => Memory.wf s.mem = true ∧ 0x050 ≤ s.i.toNat ∧ s.i.toNat + 15 ≤ 0xFFF) { State.reset with i := 0xFF0 } := by
  decide
theorem witness_LoadRegistersInclusive : (fun s : State => s.i.toNat + 15 ≤ 0xFFF) { State.reset with i := 0xFF0 } ∧
    State.reset.i.toNat + 0 ≤ 0xFFF := by decide
theorem witness_BadAddressesHaltWithNothingDone :
    (fun s : State => s.i.toNat < 0x050) { State.reset with i := 0x04F } ∧
    (fun s : State => 0xFFF < s.i.toNat + 2) { State.reset with i := 0xFFE } ∧
    (fun s : State => 0xFFF < s.i.toNat + 15) { State.reset with i := 0xFF1 } ∧
    (fun s : State => 0xFFF < s.i.toNat + (2 : Nibble).toNat - 1) { State.reset with i := 0xFFF } := by decide
theorem witness_StoreThenLoadRoundTrip : (fun s : State => Memory.wf s.mem = true ∧ s.i.toNat = (0x300 : Addr12).toNat)
    { State.reset with i := 0x300 } ∧ 0x050 ≤ (0x300 : Addr12).toNat ∧ (0x300 : Addr12).toNat + 15 ≤ 0xFFF := by decide
theorem witness_CanonicalMemoriesAreTheirReads : Memory.wf [(0x300, 7)] = true ∧
    Memory.write (Memory.write [] 0x300 9) 0x300 7 = [(0x300, 7)] := by decide
theorem witness_DrawTogglesTheCellsUnderTheSprite : (0 : Nibble) = 0 ∧
    (fun s : State => s.i.toNat + (15 : Nibble).toNat - 1 ≤ 0xFFF) { State.reset with i := 0xFF1 } := by decide
theorem witness_DrawingTwiceRestoresTheScreen : (next? (exec (.drw 0 1 5) State.reset)).map
    (fun t => (t.reg 0 == State.reset.reg 0) && (t.reg 1 == State.reset.reg 1)) = some true := by decide
theorem witness_KeySkipsTestTheLevel : ((withRegs State.reset [(1, 15)]).reg 1).toNat = (15 : Key).val := by decide
theorem witness_KeyNumberAboveFifteenHalts : 15 < ((withRegs State.reset [(1, 16)]).reg 1).toNat := by decide
theorem witness_DelayTimerReadAfterTheTick : (start 0xF107).mode = .run ∧ Fetches (start 0xF107) (.ldVxDT 1) :=
  ⟨rfl, start_fetches (by decide)⟩
theorem witness_DelayTimerSetAfterTheTick : (start 0xF115).mode = .run ∧ Fetches (start 0xF115) (.ldDTVx 1) ∧
    ∃ t u, step (start 0xF115) = .next t ∧ step t = .next u ∧ u.mode = .halt :=
  ⟨rfl, start_fetches (by decide), _, _, rfl, rfl, rfl⟩
theorem witness_SoundTimerIsWriteOnly : ∀ x, Instr.cls ≠ .ldSTVx x := by decide
theorem witness_KeyDownCompletesTheWait : (State.reset.enterWait 3).mode = .wait 3 ∧
    (State.reset.enterWait 3).key 4 = false ∧ ((State.reset.enterWait 3).setKeyLevel 4 true).key 4 = true ∧
    (∀ r, State.reset.mode ≠ .wait r) := by decide
theorem witness_TimerAndKeypadInstructionsTouchNothingElse :
    (∃ t, exec (.ldVxDT 1) State.reset = .next t) ∧ (∃ t, exec (.skp 1) State.reset = .next t) := ⟨⟨_, rfl⟩, ⟨_, rfl⟩⟩
theorem witness_StepNeverClearsTheRedrawFlag : ∃ t, step { start 0x1200 with rd := true } = .next t ∧ t.rd = true :=
  ⟨_, rfl, rfl⟩
theorem witness_HaltIsFinalUntilReset : (State.reset.halted (.decodeError 0)).mode = .halt ∧
    (∀ img, Event.reset img ∉ [Event.step, Event.setKey 2 true, Event.takeFrame]) := ⟨rfl, by simp⟩

end Sys2Proof.Tests
end

section
/-! PROOFS. Family 30_encoding: the ignored y field of SHR and SHL (R68). -/

namespace Sys2Proof

/-! ### A word is the format of its own fields (R61, R62) -/

theorem formatA_of_opField {w : Word} {op : Nibble} (hop : (opField w).toNat = op.toNat) :
    formatA op (nnnField w) = w := by
  apply BitVec.eq_of_toNat_eq
  rw [formatA_toNat, ← hop, opField_toNat, nnnField_toNat]
  omega

theorem formatXI_of_opField {w : Word} {op : Nibble} (hop : (opField w).toNat = op.toNat) :
    formatXI op (xField w) (nnField w) = w := by
  apply BitVec.eq_of_toNat_eq
  rw [formatXI_toNat, ← hop, opField_toNat, xField_val, nnField_toNat]
  omega

theorem formatXI_of_opField_of_nnField {w : Word} {op : Nibble} {nn : Byte} (hop : (opField w).toNat = op.toNat)
    (hnn : (nnField w).toNat = nn.toNat) : formatXI op (xField w) nn = w := by
  rw [← BitVec.eq_of_toNat_eq hnn]
  exact formatXI_of_opField hop

theorem formatXYN_of_opField {w : Word} {op : Nibble} (hop : (opField w).toNat = op.toNat) :
    formatXYN op (xField w) (yField w) (nField w) = w := by
  apply BitVec.eq_of_toNat_eq
  rw [formatXYN_toNat, ← hop, opField_toNat, xField_val, yField_val, nField_toNat]
  omega

theorem formatXYN_of_opField_of_nField {w : Word} {op n : Nibble} (hop : (opField w).toNat = op.toNat)
    (hn : (nField w).toNat = n.toNat) : formatXYN op (xField w) (yField w) n = w := by
  rw [← BitVec.eq_of_toNat_eq hn]
  exact formatXYN_of_opField hop

/-! ### Only SHR and SHL drop a field of the word (R68) -/

/-- The two instructions with an ignored field. -/
def Instr.IsShift (i : Instr) : Prop := ∃ x, i = .shr x ∨ i = .shl x

theorem encode_of_decodeFamily0 {w : Word} {i : Instr} (h : decodeFamily0 w = .ok i) : encode i = w := by
  unfold decodeFamily0 at h
  split at h
  · next hw => cases h; exact hw.symm
  · split at h
    · next hw => cases h; exact hw.symm
    · cases h

theorem encode_of_decodeFamily8 {w : Word} {i : Instr} (hop : (opField w).toNat = 8) (h : decodeFamily8 w = .ok i) :
    encode i = w ∨ i.IsShift := by
  unfold decodeFamily8 at h
  split at h <;> cases h
  case h_7 => exact .inr ⟨_, .inl rfl⟩
  case h_9 => exact .inr ⟨_, .inr rfl⟩
  all_goals
    rename_i hn
    exact .inl (formatXYN_of_opField_of_nField hop hn)

theorem encode_of_decodeFamilyE {w : Word} {i : Instr} (hop : (opField w).toNat = 14) (h : decodeFamilyE w = .ok i) :
    encode i = w := by
  unfold decodeFamilyE at h
  split at h <;> cases h
  all_goals
    rename_i hnn
    exact formatXI_of_opField_of_nnField hop hnn

theorem encode_of_decodeFamilyF {w : Word} {i : Instr} (hop : (opField w).toNat = 15) (h : decodeFamilyF w = .ok i) :
    encode i = w := by
  unfold decodeFamilyF at h
  split at h <;> cases h
  all_goals
    rename_i hnn
    exact formatXI_of_opField_of_nnField hop hnn

/-- A decoded word is the encoding of its instruction, except where the y field is ignored. -/
theorem encode_of_decodeWord {w : Word} {i : Instr} (h : decodeWord w = .ok i) : encode i = w ∨ i.IsShift := by
  unfold decodeWord at h
  split at h
  case h_1 => exact .inl (encode_of_decodeFamily0 h)
  case h_2 hop | h_3 hop | h_11 hop | h_12 hop => cases h; exact .inl (formatA_of_opField hop)
  case h_4 hop | h_5 hop | h_7 hop | h_8 hop | h_13 hop => cases h; exact .inl (formatXI_of_opField hop)
  case h_6 hop | h_10 hop =>
    split at h <;> cases h
    next hn => exact .inl (formatXYN_of_opField_of_nField hop (congrArg _ hn))
  case h_9 hop => exact encode_of_decodeFamily8 hop h
  case h_14 hop => cases h; exact .inl (formatXYN_of_opField hop)
  case h_15 hop => exact .inl (encode_of_decodeFamilyE hop h)
  case h_16 =>
    have hop : (opField w).toNat = 15 := by
      have := (opField w).isLt
      simp only [imp_false] at *
      omega
    exact .inl (encode_of_decodeFamilyF hop h)

/-! ### The two shift spellings decode whatever y is (R68) -/

theorem decodeWord_shrSpelling (x y : Reg) : decodeWord (formatXYN 0x8 x y 0x6) = .ok (.shr x) := by
  simp [decodeWord, decodeFamily8]

theorem decodeWord_shlSpelling (x y : Reg) : decodeWord (formatXYN 0x8 x y 0xE) = .ok (.shl x) := by
  simp [decodeWord, decodeFamily8]

end Sys2Proof

namespace Sys2Proof.Machine

open Sys2Proof.Claims

/-! ### A register that an instruction neither reads nor writes -/

theorem State.setReg_comm {r q : Reg} (s : State) (a b : Byte) (h : r ≠ q) :
    (s.setReg r a).setReg q b = (s.setReg q b).setReg r a := by
  have hv : r.val ≠ q.val := fun e => h (Fin.ext e)
  simp only [State.setReg, Vector.set_comm a b hv]

/-- A result and a flag, both given, are written the same beside another value of a third register. -/
theorem resultFlagTo_setReg {x y : Reg} (b c : Byte) (f : Bool) (s : State) (hx : y ≠ x) (hf : y ≠ vf) :
    resultFlagTo x c f (s.setReg y b) = onNext (fun t => t.setReg y b) (resultFlagTo x c f s) := by
  have hcomm : ((s.setReg y b).setReg x c).setFlag f = ((s.setReg x c).setFlag f).setReg y b := by
    rw [State.setReg_comm s b c hx]
    exact State.setReg_comm _ b _ hf
  rw [resultFlagTo, hcomm]
  rfl

theorem execShr_setReg {x y : Reg} (b : Byte) (s : State) (hx : y ≠ x) (hf : y ≠ vf) :
    execShr x (s.setReg y b) = onNext (fun t => t.setReg y b) (execShr x s) := by
  rw [execShr, State.reg_setReg_of_ne s b hx.symm]
  exact resultFlagTo_setReg b _ _ s hx hf

theorem execShl_setReg {x y : Reg} (b : Byte) (s : State) (hx : y ≠ x) (hf : y ≠ vf) :
    execShl x (s.setReg y b) = onNext (fun t => t.setReg y b) (execShl x s) := by
  rw [execShl, State.reg_setReg_of_ne s b hx.symm]
  exact resultFlagTo_setReg b _ _ s hx hf

end Sys2Proof.Machine

namespace Sys2Proof.Proofs

open Sys2Proof Sys2Proof.Machine Sys2Proof.Claims

/-- Settles O12: the y field never reaches the decoded shift, and every word but a shift's is the encoding of what it
decodes to. -/
theorem shiftsIgnoreTheYField : Obligations.ShiftsIgnoreTheYField := by
  refine ⟨fun x y => ⟨decodeWord_shrSpelling x y, decodeWord_shlSpelling x y⟩,
    fun x y b s hx hf => ⟨execShr_setReg b s hx hf, execShl_setReg b s hx hf⟩, ?_, fun _ => ⟨rfl, rfl⟩⟩
  intro w w' i h h'
  obtain hw | hshift := encode_of_decodeWord h
  · obtain hw' | hshift := encode_of_decodeWord h'
    · exact .inl (hw.symm.trans hw')
    · exact .inr hshift
  · exact .inr hshift

end Sys2Proof.Proofs
end

section
/-! PROOFS. Family 40_step_cycle: what a step does to the redraw flag (R87). -/

namespace Sys2Proof.Machine

open Sys2Proof.Claims

/-! ### What the guarded operations can answer -/

theorem guardRead_cases {n : Nat} {s u t : State} (h : guardRead n s u = .next t) : t = u ∨ ∃ c, t = s.halted c := by
  unfold guardRead at h
  split at h
  · next c _ => cases h; exact .inr ⟨c, rfl⟩
  · cases h; exact .inl rfl

theorem guardWrite_cases {n : Nat} {s u t : State} (h : guardWrite n s u = .next t) : t = u ∨ ∃ c, t = s.halted c := by
  unfold guardWrite at h
  split at h
  · next c _ => cases h; exact .inr ⟨c, rfl⟩
  · cases h; exact .inl rfl

theorem skipOnKey_cases {p : Bool} {x : Reg} {s t : State} (h : skipOnKey p x s = .next t) :
    (∃ b, t = s.skipIf b) ∨ ∃ c, t = s.halted c := by
  unfold skipOnKey at h
  split at h
  · next k _ => cases h; exact .inl ⟨s.key k == p, rfl⟩
  · next c _ => cases h; exact .inr ⟨c, rfl⟩

/-! ### The framebuffer and the redraw flag (R23, R25) -/

/-- Only CLS and DRW touch the framebuffer and the redraw flag. -/
theorem exec_sameScreen {i : Instr} {s t : State} (hi : mayWriteScreen i = false) (h : exec i s = .next t) :
    SameScreen s t := by
  cases i with
  | cls | drw => cases hi
  | ret =>
    obtain ⟨-, rfl⟩ | ⟨-, -, rfl⟩ := popReturn_cases h
    · exact ⟨rfl, rfl⟩
    · exact ⟨rfl, rfl⟩
  | call nnn =>
    obtain ⟨-, rfl⟩ | ⟨-, rfl⟩ := callTo_cases h
    · exact ⟨rfl, rfl⟩
    · exact ⟨rfl, rfl⟩
  | skp x | sknp x =>
    obtain ⟨-, rfl⟩ | ⟨-, rfl⟩ := skipOnKey_cases h
    · exact ⟨rfl, rfl⟩
    · exact ⟨rfl, rfl⟩
  | ldB x | storeRegs x =>
    obtain rfl | ⟨-, rfl⟩ := guardWrite_cases h
    · exact ⟨rfl, rfl⟩
    · exact ⟨rfl, rfl⟩
  | loadRegs x =>
    obtain rfl | ⟨-, rfl⟩ := guardRead_cases h
    · exact ⟨rfl, rfl⟩
    · exact ⟨rfl, rfl⟩
  | _ => cases h; exact ⟨rfl, rfl⟩

/-- An instruction keeps the redraw flag or sets it. -/
theorem exec_rd {i : Instr} {s t : State} (h : exec i s = .next t) : t.rd = s.rd ∨ t.rd = true := by
  cases i with
  | cls => cases h; exact .inr rfl
  | drw x y n =>
    obtain rfl | ⟨c, rfl⟩ := guardRead_cases h
    · exact .inr rfl
    · exact .inl (State.halted_rd s c)
  | _ => exact .inl (exec_sameScreen rfl h).2

/-- A step keeps the redraw flag or sets it: the tick and the faults of the fetch and the decode leave it alone. -/
theorem step_rd {s t : State} (h : step s = .next t) : t.rd = s.rd ∨ t.rd = true := by
  obtain ⟨-, hs⟩ | ⟨-, -, _, -, hs⟩ | ⟨-, -, -, _, hs⟩ | ⟨-, _, -, hs⟩ := step_cases s
  · cases hs.symm.trans h; exact .inl rfl
  · cases hs.symm.trans h; exact .inl rfl
  · cases hs.symm.trans h; exact .inl rfl
  · have hexec := exec_rd (hs.symm.trans h)
    rwa [State.tick_rd] at hexec

end Sys2Proof.Machine

namespace Sys2Proof.Proofs

open Sys2Proof Sys2Proof.Machine Sys2Proof.Claims

/-- Settles O58: every step keeps the redraw flag or sets it, and the host's `takeFrame` clears it. -/
theorem stepNeverClearsTheRedrawFlag : Obligations.StepNeverClearsTheRedrawFlag := by
  refine ⟨fun s t h hrd => ?_, State.clearRedraw_rd⟩
  obtain hkept | hset := step_rd h
  · exact hkept.trans hrd
  · exact hset

end Sys2Proof.Proofs
end

section
/-! PROOFS. Family 41_control_flow: the two jumps and the four skips (R102, R104 to R108). -/

namespace Sys2Proof

/-! ### A nonzero low nibble in families 5 and 9 is illegal (R67, D23) -/

theorem decodeWord_illegalFamily5 (x y : Reg) {n : Nibble} (hn : n ≠ 0) :
    decodeWord (formatXYN 0x5 x y n) = .error .illegalFamily5 := by
  simpa [decodeWord] using hn

theorem decodeWord_illegalFamily9 (x y : Reg) {n : Nibble} (hn : n ≠ 0) :
    decodeWord (formatXYN 0x9 x y n) = .error .illegalFamily9 := by
  simpa [decodeWord] using hn

end Sys2Proof

namespace Sys2Proof.Machine

open Sys2Proof.Claims

/-! ### What a control transfer and a fault leave unchanged (R100, R203) -/

theorem State.jumpTo_onlyPc (s : State) (target : Word) : OnlyPc s (s.jumpTo target) :=
  ⟨fun _ _ => rfl, rfl, fun _ => rfl, ⟨rfl, rfl⟩, ⟨rfl, rfl⟩, ⟨rfl, rfl⟩, ⟨rfl, rfl, rfl⟩⟩

theorem State.skipIf_onlyPc (s : State) (c : Bool) : OnlyPc s (s.skipIf c) :=
  ⟨fun _ _ => rfl, rfl, fun _ => rfl, ⟨rfl, rfl⟩, ⟨rfl, rfl⟩, ⟨rfl, rfl⟩, ⟨rfl, rfl, rfl⟩⟩

theorem State.halted_faultTaken (s : State) (c : Cause) : FaultTaken c s (s.halted c) where
  record := rfl
  halted := rfl
  pcKept := rfl
  regs := fun _ _ => rfl
  index := rfl
  memory := fun _ => rfl
  stack := ⟨rfl, rfl⟩
  timers := ⟨rfl, rfl⟩
  screen := ⟨rfl, rfl⟩
  keys := rfl

/-! ### A step from a bad program counter takes the fetch fault, after the tick (R44, R82) -/

theorem step_faultTaken_of_odd {s : State} (hm : s.mode = .run) (hodd : s.pc.toNat % 2 = 1) :
    ∃ u, step s = .next u ∧ FaultTaken (.addressError .fetchMisaligned s.pc.toNat) s.tick u :=
  ⟨_, step_of_odd hm hodd, State.halted_faultTaken _ _⟩

theorem step_faultTaken_of_oob {s : State} (hm : s.mode = .run) (heven : s.pc.toNat % 2 = 0)
    (hoob : 0x1000 ≤ s.pc.toNat) :
    ∃ u, step s = .next u ∧ FaultTaken (.addressError .fetchOob s.pc.toNat) s.tick u :=
  ⟨_, step_of_oob hm heven (by omega), State.halted_faultTaken _ _⟩

/-! ### Jump targets (R102, R104) -/

/-- The largest even 12-bit address is `0xFFE`, the last one a whole word fits at. -/
theorem addrWord_fetchable {nnn : Addr12} (heven : nnn.toNat % 2 = 0) : Fetchable (addrWord nnn) := by
  have hlt := nnn.isLt
  rw [Fetchable, addrWord_toNat]
  omega

/-- The sum of a 12-bit address and a byte fits in 16 bits, so nothing is reduced. -/
theorem addrWord_add_byteWord_toNat (nnn : Addr12) (b : Byte) :
    (addrWord nnn + byteWord b).toNat = nnn.toNat + b.toNat := by
  have hnnn := nnn.isLt
  have hb := b.isLt
  rw [BitVec.toNat_add, addrWord_toNat, byteWord_toNat]
  omega

/-! ### Skips (R84, R105 to R108) -/

/-- An instruction that skips on a test `c` of the condition `p` moves `pc` by 4 or by 2 and nothing else. -/
theorem exec_skip_spec {i : Instr} {s : State} {c : Bool} {p : Prop} [Decidable p]
    (hexec : exec i s = .next (s.skipIf c)) (hc : c = true ↔ p) :
    ∃ t, exec i s = .next t ∧ t.pc = (if p then s.pc + 4 else s.pc + 2) ∧ OnlyPc s t := by
  refine ⟨s.skipIf c, hexec, ?_, s.skipIf_onlyPc c⟩
  simp only [State.skipIf_pc, hc]

theorem exec_seReg_spec (x y : Reg) (s : State) :
    ∃ t, exec (.seReg x y) s = .next t ∧ t.pc = (if s.reg x = s.reg y then s.pc + 4 else s.pc + 2) ∧ OnlyPc s t :=
  exec_skip_spec rfl beq_iff_eq

theorem exec_sneReg_spec (x y : Reg) (s : State) :
    ∃ t, exec (.sneReg x y) s = .next t ∧ t.pc = (if s.reg x ≠ s.reg y then s.pc + 4 else s.pc + 2) ∧ OnlyPc s t :=
  exec_skip_spec rfl bne_iff_ne

end Sys2Proof.Machine

namespace Sys2Proof.Proofs

open Sys2Proof Sys2Proof.Machine Sys2Proof.Claims

/-- Settles O22: the jump stores `nnn` unchecked, and the fetch of the next step is what finds an odd target. -/
theorem jumpGoesToItsAddress : Obligations.JumpGoesToItsAddress := by
  intro nnn s
  have hpc : (s.jumpTo (addrWord nnn)).pc.toNat = nnn.toNat := addrWord_toNat nnn
  refine ⟨s.jumpTo (addrWord nnn), rfl, hpc, s.jumpTo_onlyPc _, addrWord_fetchable, fun hm hodd => ?_⟩
  rw [← hpc] at hodd ⊢
  exact step_faultTaken_of_odd hm hodd

/-- Settles O23: the target is the unreduced sum, and the fetch of the next step looks at its parity before its bound. -/
theorem jumpWithOffsetAddsV0 : Obligations.JumpWithOffsetAddsV0 := by
  intro nnn s
  exact ⟨s.jumpTo (addrWord nnn + byteWord (s.reg 0)), rfl, addrWord_add_byteWord_toNat nnn (s.reg 0),
    s.jumpTo_onlyPc _, fun hm hodd => step_faultTaken_of_odd hm hodd,
    fun hm heven hoob => step_faultTaken_of_oob hm heven hoob⟩

/-- Settles O28: each immediate skip is the shared skip on its own condition. -/
theorem immediateSkips : Obligations.ImmediateSkips :=
  fun _ _ _ => ⟨exec_skip_spec rfl beq_iff_eq, exec_skip_spec rfl bne_iff_ne⟩

/-- Settles O29: each register skip is the shared skip on its own condition, which `x = y` decides. -/
theorem registerSkips : Obligations.RegisterSkips := by
  intro x y s
  refine ⟨exec_seReg_spec x y s, exec_sneReg_spec x y s, ?_, ?_,
    fun n hn => ⟨decodeWord_illegalFamily5 x y hn, decodeWord_illegalFamily9 x y hn⟩⟩
  · obtain ⟨t, ht, hpc, -⟩ := exec_seReg_spec x x s
    exact ⟨t, ht, hpc.trans (if_pos rfl)⟩
  · obtain ⟨t, ht, hpc, -⟩ := exec_sneReg_spec x x s
    exact ⟨t, ht, hpc.trans (if_neg (not_not_intro rfl))⟩

end Sys2Proof.Proofs
end

section
/-! PROOFS. Family 42_alu: the loads, the immediate addition and the logic operations, which leave the flag alone
(R120 to R125). -/

namespace Sys2Proof.Machine

open Sys2Proof.Claims

/-! ### A result written to one register, without a flag (R84, R120 to R125) -/

theorem State.setReg_advance_onlyRegsPc (s : State) (x : Reg) (b : Byte) : OnlyRegsPc [x] s (s.setReg x b).advance := by
  refine ⟨fun r hr => ?_, rfl, fun _ => rfl, ⟨rfl, rfl⟩, ⟨rfl, rfl⟩, ⟨rfl, rfl⟩, ⟨rfl, rfl, rfl⟩⟩
  have hne : r ≠ x := fun e => hr (List.mem_singleton.mpr e)
  rw [State.reg_advance, State.reg_setReg_of_ne s b hne]

/-- An instruction whose meaning is the result `b` to `x` completes with `b` in that register, `pc` advanced by 2 and
nothing else changed. -/
theorem exec_resultTo_spec {i : Instr} {s : State} {x : Reg} {b : Byte} (hexec : exec i s = resultTo x b s) :
    ∃ t, exec i s = .next t ∧ t.reg x = b ∧ t.pc = s.pc + 2 ∧ OnlyRegsPc [x] s t :=
  ⟨(s.setReg x b).advance, hexec, State.reg_setReg_self s x b, rfl, s.setReg_advance_onlyRegsPc x b⟩

/-- The same with the result known by its bits. -/
theorem exec_resultTo_bits_spec {i : Instr} {s : State} {x : Reg} {b : Byte} {f : Nat → Bool}
    (hexec : exec i s = resultTo x b s) (hb : ∀ k, b.getLsbD k = f k) :
    ∃ t, exec i s = .next t ∧ (∀ k, (t.reg x).getLsbD k = f k) ∧ t.pc = s.pc + 2 ∧ OnlyRegsPc [x] s t := by
  obtain ⟨t, ht, hreg, hrest⟩ := exec_resultTo_spec hexec
  exact ⟨t, ht, fun k => hreg ▸ hb k, hrest⟩

end Sys2Proof.Machine

namespace Sys2Proof.Proofs

open Sys2Proof Sys2Proof.Machine Sys2Proof.Claims

/-- Settles O30: the result is the immediate itself. -/
theorem loadImmediateSetsRegister : Obligations.LoadImmediateSetsRegister :=
  fun _ _ _ => exec_resultTo_spec rfl

/-- Settles O31: the result is the sum of two bytes, which wraps at 256 (R121). -/
theorem addImmediateWrapsWithoutFlag : Obligations.AddImmediateWrapsWithoutFlag := by
  intro x nn s
  obtain ⟨t, ht, hreg, hrest⟩ := exec_resultTo_spec (i := .addImm x nn) (s := s) rfl
  exact ⟨t, ht, hreg ▸ BitVec.toNat_add (s.reg x) nn, hrest⟩

/-- Settles O32: the copy's result is the source, and each logic operation's result is known bit by bit. -/
theorem copyAndLogicLeaveTheFlag : Obligations.CopyAndLogicLeaveTheFlag :=
  fun _ _ _ => ⟨exec_resultTo_spec rfl, exec_resultTo_bits_spec rfl fun _ => BitVec.getLsbD_or,
    exec_resultTo_bits_spec rfl fun _ => BitVec.getLsbD_and, exec_resultTo_bits_spec rfl fun _ => BitVec.getLsbD_xor⟩

end Sys2Proof.Proofs
end

section
/-! PROOFS. Family 43_index_memory: the load of the index register (R140). -/

namespace Sys2Proof.Machine

open Sys2Proof.Claims

/-! ### A word written to the index register, without a flag (R140) -/

theorem State.setIndex_advance_onlyRegsIndexPc (s : State) (w : Word) :
    OnlyRegsIndexPc [] s (s.setIndex w).advance :=
  ⟨fun _ _ => rfl, fun _ => rfl, ⟨rfl, rfl⟩, ⟨rfl, rfl⟩, ⟨rfl, rfl⟩, ⟨rfl, rfl, rfl⟩⟩

/-- An instruction whose meaning is the word `w` to the index register completes with `w` there, `pc` advanced by 2 and
nothing else changed. -/
theorem exec_setIndex_spec {i : Instr} {s : State} {w : Word} (hexec : exec i s = .next (s.setIndex w).advance) :
    ∃ t, exec i s = .next t ∧ t.i = w ∧ t.pc = s.pc + 2 ∧ OnlyRegsIndexPc [] s t :=
  ⟨(s.setIndex w).advance, hexec, rfl, rfl, s.setIndex_advance_onlyRegsIndexPc w⟩

end Sys2Proof.Machine

namespace Sys2Proof.Proofs

open Sys2Proof Sys2Proof.Machine Sys2Proof.Claims

/-- Settles O37: the word written is the address widened to 16 bits, which keeps its value. -/
theorem setIndexZeroExtends : Obligations.SetIndexZeroExtends := by
  intro nnn s
  obtain ⟨t, ht, hi, hrest⟩ := exec_setIndex_spec (i := .ldI nnn) (s := s) rfl
  exact ⟨t, ht, hi ▸ addrWord_toNat nnn, hrest⟩

end Sys2Proof.Proofs
end

section
/-! PROOFS. Family 44_display: the clear screen and the collision flag of the sprite (R160, R164). -/

namespace Sys2Proof.Machine

open Sys2Proof.Claims

/-! ### A written framebuffer leaves the rest alone (R23, R25, R84) -/

theorem State.setScreen_advance_frame (s : State) (f : Screen) :
    SameRegsBut [] s (s.setScreen f).advance ∧ (s.setScreen f).advance.i = s.i ∧
      SameMemory s (s.setScreen f).advance ∧ SameStack s (s.setScreen f).advance ∧
      SameTimers s (s.setScreen f).advance ∧ SameControl s (s.setScreen f).advance :=
  ⟨fun _ _ => rfl, rfl, fun _ => rfl, ⟨rfl, rfl⟩, ⟨rfl, rfl⟩, ⟨rfl, rfl, rfl⟩⟩

/-! ### The sprite of an instruction against the framebuffer before it (R161, R164) -/

/-- Is the cell under a 1 bit of the sprite of `n` rows at `I`, drawn at `Vx`, `Vy` (R161)? -/
def spriteCovers (x y : Reg) (n : Nibble) (s : State) : Fin 32 → Fin 64 → Bool :=
  rowsCover (s.reg x) (s.reg y) 0 (Memory.readRange s.mem s.i.toNat n.toNat)

/-- A sprite has at most 15 rows, so no two of them land on one row of the screen (R163). -/
theorem length_spriteBytes_lt (n : Nibble) (s : State) :
    (Memory.readRange s.mem s.i.toNat n.toNat).length < 32 := by
  have hn := n.isLt
  rw [Memory.length_readRange]
  omega

theorem cell_spriteDrawn (x y : Reg) (n : Nibble) (s : State) (row : Fin 32) (col : Fin 64) :
    (spriteDrawn x y n s).screen.cell row col = (s.fb.cell row col ^^ spriteCovers x y n s row col) :=
  (drawRows_spec (s.reg x) (s.reg y) 0 _ (length_spriteBytes_lt n s) ⟨s.fb, false⟩).1 row col

theorem hit_spriteDrawn_iff_covers (x y : Reg) (n : Nibble) (s : State) :
    (spriteDrawn x y n s).hit = true ↔
      ∃ row col, spriteCovers x y n s row col = true ∧ s.fb.cell row col = true :=
  (drawRows_spec (s.reg x) (s.reg y) 0 _ (length_spriteBytes_lt n s) ⟨s.fb, false⟩).2.trans
    (or_iff_right Bool.false_ne_true)

/-- A set cell is clear after the drawing exactly when the sprite covers it, since a covered cell is toggled once. -/
theorem hit_spriteDrawn_iff_turnedOff (x y : Reg) (n : Nibble) (s : State) :
    (spriteDrawn x y n s).hit = true ↔
      ∃ row col, s.fb.cell row col = true ∧ (spriteDrawn x y n s).screen.cell row col = false := by
  rw [hit_spriteDrawn_iff_covers]
  refine exists₂_congr fun row col => ?_
  rw [cell_spriteDrawn, and_comm]
  refine and_congr_right fun hset => ?_
  rw [hset, Bool.true_xor, Bool.not_eq_false']

/-! ### DRW completes when its bytes lie in memory (R161, R164) -/

/-- The state a completing DRW leaves: the drawn framebuffer, `VF` the collision, `pc` advanced. -/
def State.afterSprite (x y : Reg) (n : Nibble) (s : State) : State :=
  ((s.setScreen (spriteDrawn x y n s).screen).setFlag (spriteDrawn x y n s).hit).advance

theorem exec_drw_of_inMemory {x y : Reg} {n : Nibble} {s : State} (h : n = 0 ∨ s.i.toNat + n.toNat - 1 ≤ 0xFFF) :
    exec (.drw x y n) s = .next (s.afterSprite x y n) := by
  have hread : n.toNat = 0 ∨ s.i.toNat + n.toNat ≤ 4096 := by
    obtain rfl | hle := h
    · exact .inl rfl
    · exact .inr (by omega)
  exact (guardRead_eq _ _ _).trans (if_pos hread)

@[simp] theorem State.afterSprite_fb (x y : Reg) (n : Nibble) (s : State) :
    (s.afterSprite x y n).fb = (spriteDrawn x y n s).screen := rfl

theorem State.reg_vf_afterSprite (x y : Reg) (n : Nibble) (s : State) :
    (s.afterSprite x y n).reg 15 = if (spriteDrawn x y n s).hit then 1 else 0 :=
  State.reg_setReg_self _ vf _

end Sys2Proof.Machine

namespace Sys2Proof.Proofs

open Sys2Proof Sys2Proof.Machine Sys2Proof.Claims

/-- Settles O46: the framebuffer written is the blank one, and `RD` is set with it. -/
theorem clearScreenClearsEveryCell : Obligations.ClearScreenClearsEveryCell :=
  fun s => ⟨(s.setScreen blankScreen).advance, rfl, Screen.cell_blankScreen, rfl, rfl,
    s.setScreen_advance_frame blankScreen⟩

/-- Settles O48: the flag is `hit` of the drawing, which says that some set cell was turned off. -/
theorem collisionIsASetCellTurnedOff : Obligations.CollisionIsASetCellTurnedOff := by
  intro vx vy n s h
  refine ⟨s.afterSprite vx vy n, exec_drw_of_inMemory h, ?_⟩
  rw [State.afterSprite_fb, State.reg_vf_afterSprite, ← hit_spriteDrawn_iff_turnedOff]
  cases (spriteDrawn vx vy n s).hit
  · decide
  · decide

end Sys2Proof.Proofs
end

section
/-! PROOFS. Family 45_timers_keypad: the timer transfers, the write-only sound timer, and what the timer and keypad
instructions leave alone (R172 to R174, R177). -/

namespace Sys2Proof.Machine

open Sys2Proof.Claims

/-! ### A written timer leaves the rest alone (R84, R173, R174) -/

theorem State.setDelay_advance_frame (s : State) (b : Byte) :
    SameRegsBut [] s (s.setDelay b).advance ∧ (s.setDelay b).advance.i = s.i ∧
      SameMemory s (s.setDelay b).advance ∧ SameStack s (s.setDelay b).advance ∧
      SameScreen s (s.setDelay b).advance ∧ SameControl s (s.setDelay b).advance :=
  ⟨fun _ _ => rfl, rfl, fun _ => rfl, ⟨rfl, rfl⟩, ⟨rfl, rfl⟩, ⟨rfl, rfl, rfl⟩⟩

theorem State.setSound_advance_frame (s : State) (b : Byte) :
    SameRegsBut [] s (s.setSound b).advance ∧ (s.setSound b).advance.i = s.i ∧
      SameMemory s (s.setSound b).advance ∧ SameStack s (s.setSound b).advance ∧
      SameScreen s (s.setSound b).advance ∧ SameControl s (s.setSound b).advance :=
  ⟨fun _ _ => rfl, rfl, fun _ => rfl, ⟨rfl, rfl⟩, ⟨rfl, rfl⟩, ⟨rfl, rfl, rfl⟩⟩

/-! ### The key table and the delay timer (R173, R177) -/

/-- No instruction writes the key table, and only `FX15` writes the delay timer. -/
theorem exec_keys_dt {i : Instr} {s t : State} (h : exec i s = .next t) :
    t.keys = s.keys ∧ ((∃ x, i = .ldDTVx x) ∨ t.dt = s.dt) := by
  cases i with
  | ldDTVx x => cases h; exact ⟨rfl, .inl ⟨x, rfl⟩⟩
  | ret =>
    obtain ⟨-, rfl⟩ | ⟨-, -, rfl⟩ := popReturn_cases h
    · exact ⟨rfl, .inr rfl⟩
    · exact ⟨rfl, .inr rfl⟩
  | call nnn =>
    obtain ⟨-, rfl⟩ | ⟨-, rfl⟩ := callTo_cases h
    · exact ⟨rfl, .inr rfl⟩
    · exact ⟨rfl, .inr rfl⟩
  | skp x | sknp x =>
    obtain ⟨-, rfl⟩ | ⟨-, rfl⟩ := skipOnKey_cases h
    · exact ⟨rfl, .inr rfl⟩
    · exact ⟨rfl, .inr rfl⟩
  | ldB x | storeRegs x =>
    obtain rfl | ⟨-, rfl⟩ := guardWrite_cases h
    · exact ⟨rfl, .inr rfl⟩
    · exact ⟨rfl, .inr rfl⟩
  | drw x y n | loadRegs x =>
    obtain rfl | ⟨-, rfl⟩ := guardRead_cases h
    · exact ⟨rfl, .inr rfl⟩
    · exact ⟨rfl, .inr rfl⟩
  | _ => cases h; exact ⟨rfl, .inr rfl⟩

/-- A RUN-mode step that fetches no `FX15` leaves the delay timer as the tick did, also when it faults. -/
theorem step_dt {s t : State} (h : step s = .next t) (hm : s.mode = .run) (hi : ∀ x, ¬ Fetches s (.ldDTVx x)) :
    t.dt = countDown s.dt := by
  obtain ⟨hne, -⟩ | ⟨-, -, _, -, hs⟩ | ⟨-, -, -, _, hs⟩ | ⟨-, i, hf, hs⟩ := step_cases s
  · exact absurd hm hne
  · cases hs.symm.trans h; rfl
  · cases hs.symm.trans h; rfl
  · obtain ⟨-, ⟨x, rfl⟩ | hdt⟩ := exec_keys_dt (hs.symm.trans h)
    · exact absurd hf (hi x)
    · exact hdt

/-! ### No shared operation reads the sound timer (R174) -/

theorem guardRead_setSound {n : Nat} {s u u' : State} {b : Byte} (hu : u' = u.setSound b) :
    guardRead n (s.setSound b) u' = onNext (fun t => t.setSound b) (guardRead n s u) := by
  subst hu
  rw [guardRead, guardRead, State.setSound_i]
  cases precheck readCheck s.i.toNat n with
  | none => rfl
  | some c => rfl

theorem guardWrite_setSound {n : Nat} {s u u' : State} {b : Byte} (hu : u' = u.setSound b) :
    guardWrite n (s.setSound b) u' = onNext (fun t => t.setSound b) (guardWrite n s u) := by
  subst hu
  rw [guardWrite, guardWrite, State.setSound_i]
  cases precheck writeCheck s.i.toNat n with
  | none => rfl
  | some c => rfl

theorem skipOnKey_setSound (p : Bool) (x : Reg) (s : State) (b : Byte) :
    skipOnKey p x (s.setSound b) = onNext (fun t => t.setSound b) (skipOnKey p x s) := by
  have hkey : keyOperand x (s.setSound b) = keyOperand x s := rfl
  rw [skipOnKey, skipOnKey, hkey]
  cases keyOperand x s with
  | ok k => rfl
  | error c => rfl

theorem callTo_setSound (target : Word) (s : State) (b : Byte) :
    callTo target (s.setSound b) = onNext (fun t => t.setSound b) (callTo target s) := by
  simp only [callTo, State.setSound_sp, apply_dite (onNext _), apply_ite (onNext _)]
  rfl

theorem popReturn_setSound (s : State) (b : Byte) :
    popReturn (s.setSound b) = onNext (fun t => t.setSound b) (popReturn s) := by
  simp only [popReturn, State.setSound_sp, apply_dite (onNext _), apply_ite (onNext _)]
  rfl

/-- Every instruction but `FX18` answers the same whatever the sound timer holds, and carries it along. -/
theorem exec_setSound {i : Instr} (hi : ∀ x, i ≠ .ldSTVx x) (s : State) (b : Byte) :
    exec i (s.setSound b) = onNext (fun t => t.setSound b) (exec i s) := by
  cases i with
  | ldSTVx x => exact absurd rfl (hi x)
  | ret => exact popReturn_setSound s b
  | call nnn => exact callTo_setSound (addrWord nnn) s b
  | skp x => exact skipOnKey_setSound true x s b
  | sknp x => exact skipOnKey_setSound false x s b
  | ldB x | storeRegs x => exact guardWrite_setSound rfl
  | drw x y n | loadRegs x => exact guardRead_setSound rfl
  | _ => rfl

/-! ### What a timer or keypad instruction leaves alone (R177) -/

/-- A key skip moves `pc` or faults, whatever the key's level. -/
theorem skipOnKey_frame {p : Bool} {x : Reg} {s t : State} (h : skipOnKey p x s = .next t) :
    SameMemory s t ∧ t.i = s.i ∧ SameStack s t ∧ SameScreen s t ∧ ∀ r, t.reg r = s.reg r := by
  obtain ⟨-, rfl⟩ | ⟨-, rfl⟩ := skipOnKey_cases h
  · exact ⟨fun _ => rfl, rfl, ⟨rfl, rfl⟩, ⟨rfl, rfl⟩, fun _ => rfl⟩
  · exact ⟨fun _ => rfl, rfl, ⟨rfl, rfl⟩, ⟨rfl, rfl⟩, fun _ => rfl⟩

end Sys2Proof.Machine

namespace Sys2Proof.Proofs

open Sys2Proof Sys2Proof.Machine Sys2Proof.Claims

/-- Settles O53: the instruction writes after the tick of its own step, and the next step in RUN mode counts down. -/
theorem delayTimerSetAfterTheTick : Obligations.DelayTimerSetAfterTheTick := by
  intro x s
  refine ⟨⟨(s.setDelay (s.reg x)).advance, rfl, rfl, rfl, rfl, s.setDelay_advance_frame _⟩, fun hm hf => ?_⟩
  refine ⟨(s.tick.setDelay (s.reg x)).advance, step_of_fetches hm hf, rfl, fun u hu hi => ?_⟩
  have hdt : u.dt = countDown (s.reg x) := step_dt hu hm hi
  rw [hdt, countDown_toNat]

/-- Settles O54: the host reads the byte written, and no other instruction's answer depends on it. -/
theorem soundTimerIsWriteOnly : Obligations.SoundTimerIsWriteOnly :=
  ⟨fun x s => ⟨(s.setSound (s.reg x)).advance, rfl, rfl, rfl, rfl, rfl, bne_iff_ne, s.setSound_advance_frame _⟩,
    fun _ s b hi => exec_setSound hi s b⟩

/-- Settles O57: the skips move `pc` or fault, the timer transfers and `FX0A` write one field each, and only `FX07`
writes a register, which is `VF` when x = 15. -/
theorem timerAndKeypadInstructionsTouchNothingElse : Obligations.TimerAndKeypadInstructionsTouchNothingElse := by
  refine ⟨fun x i s t hi h => ?_, fun _ _ _ h => (exec_keys_dt h).1⟩
  simp only [List.mem_cons, List.not_mem_nil, or_false] at hi
  obtain rfl | rfl | rfl | rfl | rfl | rfl := hi
  case inl | inr.inl =>
    obtain ⟨hmem, hindex, hstack, hscreen, hreg⟩ := skipOnKey_frame h
    exact ⟨hmem, hindex, hstack, hscreen, fun _ => hreg 15⟩
  case inr.inr.inl =>
    cases h
    refine ⟨fun _ => rfl, rfl, ⟨rfl, rfl⟩, ⟨rfl, rfl⟩, fun hne => ?_⟩
    exact State.reg_setReg_of_ne s s.dt fun hx => hne (congrArg _ hx.symm)
  -- FX15, FX18 and FX0A write no general register
  all_goals
    cases h
    exact ⟨fun _ => rfl, rfl, ⟨rfl, rfl⟩, ⟨rfl, rfl⟩, fun _ => rfl⟩

/-- Settles O52: the result of `FX07` is the delay timer of its state, in a step the state after the tick. -/
theorem delayTimerReadAfterTheTick : Obligations.DelayTimerReadAfterTheTick := by
  intro x s
  refine ⟨exec_resultTo_spec rfl, fun hm hf => ?_⟩
  obtain ⟨t, ht, hreg, -, -, -, -, -, ⟨hdt, -⟩, -⟩ := exec_resultTo_spec (i := .ldVxDT x) (s := s.tick) rfl
  refine ⟨t, (step_of_fetches hm hf).trans ht, ?_, hdt.trans hreg.symm⟩
  rw [hreg, State.tick_dt, countDown_toNat]

end Sys2Proof.Proofs
end

section
/-! PROOFS. Family 60_exceptions: an oversize image, the stack errors and the frame taken by the host (R206, R208, R225). -/

namespace Sys2Proof.Machine

/-! ### A state that a step leaves alone is left alone by any number of steps (R81) -/

theorem run_of_step_self {M : Host.Core} {s : M.State} (h : M.step s = .next s) (k : Nat) : M.run k s = .next s := by
  induction k with
  | zero => rfl
  | succ k ih => simp only [Host.Core.run, h, ih]

/-! ### Reset with an image (R241, R242) -/

theorem resetWith_of_oversize {img : List Byte} (h : 3584 < img.length) :
    resetWith img = State.reset.halted (.loadError img.length) :=
  if_neg (Nat.not_le_of_lt h)

theorem resetWith_of_fits {img : List Byte} (h : img.length ≤ 3584) :
    resetWith img = { State.reset with mem := Memory.writeRange State.reset.mem Config.progBase img } :=
  if_pos h

/-! ### The frame (R225) -/

/-- Dividing the index `y * 64 + x` by 64 gives back the row and leaves the column. -/
theorem getElem_frameOf (s : State) (y : Fin 32) (x : Fin 64) (h : y.val * 64 + x.val < 2048) :
    (frameOf s)[y.val * 64 + x.val] = s.fb.cell y x := by
  have hrow : (y.val * 64 + x.val) / 64 = y.val := by omega
  have hcol : (y.val * 64 + x.val) % 64 = x.val := by omega
  simp only [frameOf, Vector.getElem_ofFn, hrow, hcol, Screen.cell, Fin.getElem_fin]

end Sys2Proof.Machine

namespace Sys2Proof.Proofs

open Sys2Proof Sys2Proof.Machine Sys2Proof.Claims

/-- Settles O16: an oversize image leaves the reset state halted, where every step stands still; an image that fits
changes only the memory of the reset state. -/
theorem oversizeImageIsLoadError : Obligations.OversizeImageIsLoadError := by
  refine fun img => ⟨fun hbig => ?_, fun hfits => ?_⟩
  · rw [resetWith_of_oversize hbig]
    have hstep := step_of_halt (State.halted_mode State.reset (.loadError img.length))
    exact ⟨State.halted_mode _ _, ⟨_, _, State.halted_fault _ _⟩, run_of_step_self (M := Sys2Proof.core) hstep⟩
  · rw [resetWith_of_fits hfits]
    exact ⟨rfl, rfl⟩

/-- Settles O26: a full stack refuses the push and an empty one the pop, each as a fault that keeps the rest. -/
theorem stackErrorsHalt : Obligations.StackErrorsHalt := by
  refine fun s => ⟨fun hfull nnn => ?_, fun hempty => ?_⟩
  · have hsp : s.sp.toNat = 16 := congrArg BitVec.toNat hfull
    exact ⟨_, callTo_of_full (addrWord nnn) hsp, s.halted_faultTaken _⟩
  · exact ⟨_, popReturn_of_empty hempty, s.halted_faultTaken _⟩

/-- Settles O59: the grid is read cell by cell, and only `RD` is written. -/
theorem takeFrameReturnsTheGrid : Obligations.TakeFrameReturnsTheGrid :=
  fun s => ⟨fun y x => getElem_frameOf s y x _, s.clearRedraw_rd, rfl⟩

end Sys2Proof.Proofs
end

section
/-! PROOFS. The decoder against the encoder and the opcode table (30_encoding R61 to R67; decisions D1, D23). -/

namespace Sys2Proof

/-! ### Decoding an encoded word (R62, R64) -/

/-- The fields of the encoded word are the operands, so the decoder reads them back. -/
theorem decodeWord_encode (i : Instr) : decodeWord (encode i) = .ok i := by
  cases i with
  | cls | ret => decide
  | jp | call | seImm | sneImm | seReg | ldImm | addImm | sneReg | ldI | jpV0 | rnd | drw => simp [encode, decodeWord]
  | ldReg | orReg | andReg | xorReg | addReg | subReg | shr | subnReg | shl => simp [encode, decodeWord, decodeFamily8]
  | skp | sknp => simp [encode, decodeWord, decodeFamilyE]
  | ldVxDT | ldVxK | ldDTVx | ldSTVx | addIVx | ldF | ldB | storeRegs | loadRegs =>
    simp [encode, decodeWord, decodeFamilyF]

/-! ### The rows of the opcode table (R65) -/

theorem rowOf_mem_opcodeRows (i : Instr) : rowOf i ∈ opcodeRows := by
  cases i <;> simp [opcodeRows, tableInstrs, tableInstrsLow, tableInstrsHigh, rowOf]

theorem legalWord_iff (w : Word) : legalWord w = true ↔ ∃ i, (rowOf i).accepts w = true := by
  rw [legalWord, List.any_eq_true]
  constructor
  · rintro ⟨r, hr, hw⟩
    obtain ⟨i, -, rfl⟩ := List.mem_map.mp hr
    exact ⟨i, hw⟩
  · rintro ⟨i, hw⟩
    exact ⟨rowOf i, rowOf_mem_opcodeRows i, hw⟩

open Laws in
/-- The encoding of an instruction is a word of its own row. -/
theorem rowOf_accepts_encode (i : Instr) : (rowOf i).accepts (encode i) = true := by
  cases i with
  | cls => exact MatchesRow.cls
  | ret => exact MatchesRow.ret
  | jp nnn => exact MatchesRow.jp nnn
  | call nnn => exact MatchesRow.call nnn
  | seImm x nn => exact MatchesRow.seImm x nn
  | sneImm x nn => exact MatchesRow.sneImm x nn
  | seReg x y => exact MatchesRow.seReg x y
  | ldImm x nn => exact MatchesRow.ldImm x nn
  | addImm x nn => exact MatchesRow.addImm x nn
  | ldReg x y => exact MatchesRow.ldReg x y
  | orReg x y => exact MatchesRow.orReg x y
  | andReg x y => exact MatchesRow.andReg x y
  | xorReg x y => exact MatchesRow.xorReg x y
  | addReg x y => exact MatchesRow.addReg x y
  | subReg x y => exact MatchesRow.subReg x y
  | shr x => exact MatchesRow.shr x
  | subnReg x y => exact MatchesRow.subnReg x y
  | shl x => exact MatchesRow.shl x
  | sneReg x y => exact MatchesRow.sneReg x y
  | ldI nnn => exact MatchesRow.ldI nnn
  | jpV0 nnn => exact MatchesRow.jpV0 nnn
  | rnd x nn => exact MatchesRow.rnd x nn
  | drw x y n => exact MatchesRow.drw x y n
  | skp x => exact MatchesRow.skp x
  | sknp x => exact MatchesRow.sknp x
  | ldVxDT x => exact MatchesRow.ldVxDT x
  | ldVxK x => exact MatchesRow.ldVxK x
  | ldDTVx x => exact MatchesRow.ldDTVx x
  | ldSTVx x => exact MatchesRow.ldSTVx x
  | addIVx x => exact MatchesRow.addIVx x
  | ldF x => exact MatchesRow.ldF x
  | ldB x => exact MatchesRow.ldB x
  | storeRegs x => exact MatchesRow.storeRegs x
  | loadRegs x => exact MatchesRow.loadRegs x

/-! ### A field that a row's mask covers is the pattern's (R65) -/

theorem and_mask_of_accepts {r : Row} {w : Word} (h : r.accepts w = true) : w &&& r.mask = r.pattern :=
  beq_iff_eq.mp h

/-- A field of `n` bits that the mask covers whole. -/
theorem extractLsb'_of_accepts {r : Row} {w : Word} {k n : Nat} (h : r.accepts w = true)
    (hm : r.mask.extractLsb' k n = BitVec.allOnes n) : w.extractLsb' k n = r.pattern.extractLsb' k n := by
  rw [← and_mask_of_accepts h, BitVec.extractLsb'_and, hm, BitVec.and_allOnes]

theorem eq_pattern_of_accepts {r : Row} {w : Word} (h : r.accepts w = true) (hm : r.mask = 0xFFFF) :
    w = r.pattern := by
  rw [← and_mask_of_accepts h, hm]
  exact BitVec.and_allOnes.symm

theorem opField_of_accepts {i : Instr} {w : Word} (h : (rowOf i).accepts w = true) :
    (opField w).toNat = (rowOf i).pattern.toNat / 4096 := by
  rw [← opField_toNat, opField, opField, extractLsb'_of_accepts h]
  cases i <;> simp [rowOf]

theorem nField_of_accepts {r : Row} {w : Word} (h : r.accepts w = true) (hm : r.mask = 0xF00F) :
    (nField w).toNat = r.pattern.toNat % 16 := by
  rw [← nField_toNat, nField, nField, extractLsb'_of_accepts h (by rw [hm]; decide)]

theorem nnField_of_accepts {r : Row} {w : Word} (h : r.accepts w = true) (hm : r.mask = 0xF0FF) :
    (nnField w).toNat = r.pattern.toNat % 256 := by
  rw [← nnField_toNat, nnField, nnField, extractLsb'_of_accepts h (by rw [hm]; decide)]

/-- A word of a row decodes to an instruction of that row: the fields the mask covers choose the branch. -/
theorem decodeWord_of_accepts {i : Instr} {w : Word} (h : (rowOf i).accepts w = true) :
    ∃ j, decodeWord w = .ok j ∧ rowOf j = rowOf i := by
  have hop := opField_of_accepts h
  cases i with
  | cls | ret =>
    rw [eq_pattern_of_accepts h rfl]
    exact ⟨_, rfl, rfl⟩
  | jp | call | seImm | sneImm | ldImm | addImm | ldI | jpV0 | rnd | drw => simp [decodeWord, hop, rowOf]
  | seReg | sneReg =>
    have hn : nField w = 0 := BitVec.eq_of_toNat_eq (by simpa [rowOf] using nField_of_accepts h rfl)
    simp [decodeWord, hop, hn, rowOf]
  | ldReg | orReg | andReg | xorReg | addReg | subReg | shr | subnReg | shl =>
    simp [decodeWord, hop, decodeFamily8, nField_of_accepts h rfl, rowOf]
  | skp | sknp => simp [decodeWord, hop, decodeFamilyE, nnField_of_accepts h rfl, rowOf]
  | ldVxDT | ldVxK | ldDTVx | ldSTVx | addIVx | ldF | ldB | storeRegs | loadRegs =>
    simp [decodeWord, hop, decodeFamilyF, nnField_of_accepts h rfl, rowOf]

/-! ### Decoding is inverted by encoding, up to the ignored field (R64, R68) -/

/-- Only the branch of family 8 answers a shift. -/
theorem decodeFamily8_of_isShift {w : Word} {i : Instr} (h : decodeWord w = .ok i) (hi : i.IsShift) :
    (opField w).toNat = 8 ∧ decodeFamily8 w = .ok i := by
  obtain ⟨x, hx⟩ := hi
  unfold decodeWord at h
  split at h
  case h_9 hop => exact ⟨hop, h⟩
  all_goals grind [decodeFamily0, decodeFamilyE, decodeFamilyF]

/-- A word that decodes to a shift is that shift's spelling with its own y field. -/
theorem formatXYN_of_decodeWord_shift {w : Word} {i : Instr} (h : decodeWord w = .ok i) (hi : i.IsShift) :
    ∃ x n, formatXYN 0x8 x (yField w) n = w ∧ (i = .shr x ∧ n = 0x6 ∨ i = .shl x ∧ n = 0xE) := by
  obtain ⟨hop, h8⟩ := decodeFamily8_of_isShift h hi
  obtain ⟨x, hx⟩ := hi
  unfold decodeFamily8 at h8
  split at h8 <;> cases h8
  case h_7 hn => exact ⟨xField w, 0x6, formatXYN_of_opField_of_nField hop hn, .inl ⟨rfl, rfl⟩⟩
  case h_9 hn => exact ⟨xField w, 0xE, formatXYN_of_opField_of_nField hop hn, .inr ⟨rfl, rfl⟩⟩
  all_goals simp at hx

theorem regBits_zero : regBits 0 = 0#4 := rfl

/-- The mask `0xFF0F` clears the y field and keeps the others. -/
theorem formatXYN_and_0xFF0F (op : Nibble) (x y : Reg) (n : Nibble) :
    formatXYN op x y n &&& 0xFF0F = formatXYN op x 0 n := by
  rw [formatXYN, formatXYN, show (0xFF0F : Word) = 0xFF#8 ++ (0x0#4 ++ 0xF#4 : BitVec 8) by decide,
    BitVec.and_append, BitVec.and_append, Laws.MatchesRow.and_byteMask, Laws.MatchesRow.and_nibbleMask,
    BitVec.and_zero, regBits_zero]

/-- A decoded word is a word of its instruction's row. -/
theorem rowOf_accepts_of_decodeWord {w : Word} {i : Instr} (h : decodeWord w = .ok i) :
    (rowOf i).accepts w = true := by
  obtain rfl | hi := encode_of_decodeWord h
  · exact rowOf_accepts_encode i
  · obtain ⟨x, n, hw, ⟨rfl, rfl⟩ | ⟨rfl, rfl⟩⟩ := formatXYN_of_decodeWord_shift h hi
    · exact hw ▸ Laws.MatchesRow.formatXY_accepts 0x8 x (yField w) 0x6 _
    · exact hw ▸ Laws.MatchesRow.formatXY_accepts 0x8 x (yField w) 0xE _

theorem decodeWord_ok_iff_legalWord (w : Word) : (∃ i, decodeWord w = .ok i) ↔ legalWord w = true := by
  rw [legalWord_iff]
  constructor
  · rintro ⟨i, h⟩
    exact ⟨i, rowOf_accepts_of_decodeWord h⟩
  · rintro ⟨i, hw⟩
    obtain ⟨j, hj, -⟩ := decodeWord_of_accepts hw
    exact ⟨j, hj⟩

end Sys2Proof

namespace Sys2Proof.Proofs

open Sys2Proof Sys2Proof.Machine Sys2Proof.Claims

/-- Settles O8: the decoder reads back the operands from the fields, and the two bytes joined are the word. -/
theorem decodeOfEncode : Obligations.DecodeOfEncode := by
  refine fun i => ⟨decodeWord_encode i, ?_⟩
  rw [encodeBytes, decodeBytes, joinBytes_split, decodeWord_encode]

/-- Settles O9: a decoded word is one of its instruction's row, and a word of a row decodes. -/
theorem decoderAcceptsExactlyTheTable : Obligations.DecoderAcceptsExactlyTheTable :=
  decodeWord_ok_iff_legalWord

/-- Settles O10: every word but a shift's is the encoding itself, and a shift's loses its y field. -/
theorem encodeOfDecode : Obligations.EncodeOfDecode := by
  refine fun w i h => ⟨rowOf_accepts_of_decodeWord h, ?_⟩
  by_cases hi : i.IsShift
  · obtain ⟨x, n, hw, ⟨rfl, rfl⟩ | ⟨rfl, rfl⟩⟩ := formatXYN_of_decodeWord_shift h hi
    · exact hw ▸ (formatXYN_and_0xFF0F 0x8 x (yField w) 0x6).symm
    · exact hw ▸ (formatXYN_and_0xFF0F 0x8 x (yField w) 0xE).symm
  · have hw : encode i = w := (encode_of_decodeWord h).resolve_right hi
    split
    · exact absurd ⟨_, .inl rfl⟩ hi
    · exact absurd ⟨_, .inr rfl⟩ hi
    · exact hw

/-- Settles O11: a word of a row decodes to an instruction of that row, and it decodes to one instruction only. -/
theorem tableRowsNeverOverlap : Obligations.TableRowsNeverOverlap := by
  intro w r q hr hq hrw hqw
  obtain ⟨i, -, rfl⟩ := List.mem_map.mp hr
  obtain ⟨j, -, rfl⟩ := List.mem_map.mp hq
  obtain ⟨k, hk, hki⟩ := decodeWord_of_accepts hrw
  obtain ⟨l, hl, hlj⟩ := decodeWord_of_accepts hqw
  cases hk.symm.trans hl
  exact hki.symm.trans hlj

/-- Settles O13: ten words, each decoded by evaluation. -/
theorem sampleWordsDecode : Obligations.SampleWordsDecode := by
  unfold Obligations.SampleWordsDecode
  decide

end Sys2Proof.Proofs
end

section
/-! PROOFS. What an instruction can answer, said once, and the statements about every instruction and every step: what
they own, the ticks, the modes and the font (10_state, 20_memory section 2, 40_step_cycle). -/

namespace Sys2Proof.Machine

open Sys2Proof.Claims

/-! ### A completed store lies in RAM (R43, R58) -/

/-- Memory differs by one block written at `I`, every byte of it inside RAM. -/
def StoresInRam (s t : State) : Prop :=
  ∃ bs : List Byte, t.mem = Memory.writeRange s.mem s.i.toNat bs ∧ Config.fontEnd ≤ s.i.toNat ∧
    s.i.toNat + bs.length ≤ Config.memSize

theorem guardWrite_inRam {n : Nat} {s u t : State} (hn : 0 < n) (h16 : n ≤ 16) (h : guardWrite n s u = .next t) :
    (t = u ∧ Config.fontEnd ≤ s.i.toNat ∧ s.i.toNat + n ≤ Config.memSize) ∨ ∃ c, t = s.halted c := by
  rw [guardWrite_eq hn h16] at h
  split at h
  · cases h; exact .inr ⟨_, rfl⟩
  · next hfont =>
    split at h
    · next hend => cases h; exact .inl ⟨rfl, Nat.le_of_not_lt hfont, hend⟩
    · cases h; exact .inr ⟨_, rfl⟩

/-! ### Where a register write and a skip lead -/

theorem State.reg_setReg_of_mayWrite {r x : Reg} (s : State) (b : Byte) (h : (r == x) = false) :
    (s.setReg x b).reg r = s.reg r :=
  s.reg_setReg_of_ne b (beq_eq_false_iff_ne.mp h)

theorem State.reg_setFlag_of_mayWrite {r : Reg} (s : State) (f : Bool) (h : (r == 15) = false) :
    (s.setFlag f).reg r = s.reg r :=
  s.reg_setReg_of_mayWrite _ h

theorem State.reg_setReg_setFlag_of_mayWrite {r x : Reg} (s : State) (b : Byte) (f : Bool)
    (h : (r == x || r == 15) = false) : ((s.setReg x b).setFlag f).reg r = s.reg r := by
  obtain ⟨hx, hf⟩ := Bool.or_eq_false_iff.mp h
  exact (State.reg_setFlag_of_mayWrite _ f hf).trans (s.reg_setReg_of_mayWrite b hx)

theorem State.reg_setRegs_regsLoaded (s : State) (x k : Reg) :
    (s.setRegs (regsLoaded x s)).reg k = if k ≤ x then Memory.read s.mem (s.i.toNat + k.val) else s.reg k :=
  getElem_regsLoaded x s k

theorem State.skipIf_pc_cases (s : State) (c : Bool) : (s.skipIf c).pc = s.pc + 2 ∨ (s.skipIf c).pc = s.pc + 4 := by
  cases c
  · exact .inl rfl
  · exact .inr rfl

theorem addrWord_le (nnn : Addr12) : (addrWord nnn).toNat ≤ 0xFFF := by
  have hlt := nnn.isLt
  rw [addrWord_toNat]
  omega

/-! ### Everything an instruction can answer -/

/-- What every instruction keeps that completes in RUN and leaves the stack alone. The fields that its own operations
do not touch hold by definition. -/
structure Plain (i : Instr) (s t : State) : Prop where
  regs : ∀ r, mayWriteReg i r = false → t.reg r = s.reg r := by intros; rfl
  index : mayWriteIndex i = false → t.i = s.i := by intros; rfl
  pc : t.pc = s.pc + 2 ∨ t.pc = s.pc + 4 ∨ t.pc.toNat ≤ 0x10FE := by exact .inl rfl
  mem : t.mem = s.mem ∨ mayWriteMemory i = true ∧ StoresInRam s t := by exact .inl rfl
  stack : SameStack s t := by exact ⟨rfl, rfl⟩
  st : (∀ x, i ≠ .ldSTVx x) → t.st = s.st := by intros; rfl
  mode : t.mode = s.mode := by rfl
  fault : t.fault = s.fault := by rfl
  draws : (∀ x nn, i ≠ .rnd x nn) → t.draws = s.draws := by intros; rfl

/-- For any register file written, so that no check of a field looks into the bytes loaded. -/
theorem plain_loadRegs (x : Reg) (s : State) (v : Vector Byte 16) (w : Word)
    (hv : ∀ r, mayWriteReg (.loadRegs x) r = false → (s.setRegs v).reg r = s.reg r) :
    Plain (.loadRegs x) s ((s.setRegs v).setIndex w).advance :=
  { regs := hv, index := nofun }

/-- The states an instruction can answer: a fault taken, the wait for a key, a call, a return, or a plain completion. -/
inductive Answers (s : State) : Instr → State → Prop where
  | fault {i : Instr} (c : Cause) : Answers s i (s.halted c)
  | await (x : Reg) : Answers s (.ldVxK x) (s.enterWait x)
  | push (nnn : Addr12) (hs : s.sp.toNat < 16) : Answers s (.call nnn) (s.pushed (addrWord nnn) hs)
  | pop (hne : s.sp ≠ 0) (hs : s.sp.toNat - 1 < 16) : Answers s .ret (s.popped hs)
  | plain {i : Instr} {t : State} (h : Plain i s t) : Answers s i t

theorem exec_answers {i : Instr} {s t : State} (h : exec i s = .next t) : Answers s i t := by
  cases i with
  | ret =>
    obtain ⟨-, rfl⟩ | ⟨hne, hs, rfl⟩ := popReturn_cases h
    · exact .fault _
    · exact .pop hne hs
  | call nnn =>
    obtain ⟨hs, rfl⟩ | ⟨-, rfl⟩ := callTo_cases h
    · exact .push nnn hs
    · exact .fault _
  | ldVxK x => cases h; exact .await x
  | jp nnn => cases h; exact .plain { pc := .inr (.inr ((addrWord_le nnn).trans (by decide))) }
  | jpV0 nnn =>
    cases h
    have hnnn := nnn.isLt
    have hv0 := (s.reg 0).isLt
    have hpc := addrWord_add_byteWord_toNat nnn (s.reg 0)
    exact .plain { pc := .inr (.inr (hpc.trans_le (by omega))) }
  | seImm | sneImm | seReg | sneReg => cases h; exact .plain { pc := (s.skipIf_pc_cases _).imp_right .inl }
  | skp | sknp =>
    obtain ⟨b, rfl⟩ | ⟨c, rfl⟩ := skipOnKey_cases h
    · exact .plain { pc := (s.skipIf_pc_cases b).imp_right .inl }
    · exact .fault c
  | ldImm | addImm | ldReg | orReg | andReg | xorReg | ldVxDT =>
    cases h; exact .plain { regs := fun _ hr => s.reg_setReg_of_mayWrite _ hr }
  | rnd x nn =>
    cases h
    exact .plain { regs := fun _ hr => s.countDraw.reg_setReg_of_mayWrite _ hr
                   draws := fun hne => absurd rfl (hne x nn) }
  | addReg | subReg | subnReg | shr | shl =>
    cases h; exact .plain { regs := fun _ hr => s.reg_setReg_setFlag_of_mayWrite _ _ hr }
  | addIVx x =>
    cases h
    exact .plain { regs := fun _ hr => (s.setIndex _).reg_setFlag_of_mayWrite _ hr, index := nofun }
  | drw x y n =>
    obtain rfl | ⟨c, rfl⟩ := guardRead_cases h
    · exact .plain { regs := fun _ hr => (s.setScreen _).reg_setFlag_of_mayWrite _ hr }
    · exact .fault c
  | ldI | ldF => cases h; exact .plain { index := nofun }
  | ldSTVx x => cases h; exact .plain { st := fun hne => absurd rfl (hne x) }
  | ldB x =>
    obtain ⟨rfl, hlo, hhi⟩ | ⟨c, rfl⟩ := guardWrite_inRam (by decide) (by decide) h
    · exact .plain { mem := .inr ⟨rfl, bcdDigits (s.reg x), rfl, hlo, hhi⟩ }
    · exact .fault c
  | storeRegs x =>
    obtain ⟨rfl, hlo, hhi⟩ | ⟨c, rfl⟩ := guardWrite_inRam (Nat.succ_pos _) x.isLt h
    · exact .plain { mem := .inr ⟨rfl, regsUpTo x s, rfl, hlo, by rwa [length_regsUpTo]⟩, index := nofun }
    · exact .fault c
  | loadRegs x =>
    obtain rfl | ⟨c, rfl⟩ := guardRead_cases h
    · refine .plain (plain_loadRegs x s _ _ fun k hk => ?_)
      exact (s.reg_setRegs_regsLoaded x k).trans (if_neg (of_decide_eq_false hk))
    · exact .fault c
  | cls | ldDTVx => cases h; exact .plain {}

/-- Memory after an instruction is as before it, or one block in RAM was written, by a store. -/
theorem exec_mem {i : Instr} {s t : State} (h : exec i s = .next t) :
    t.mem = s.mem ∨ mayWriteMemory i = true ∧ StoresInRam s t := by
  cases exec_answers h with
  | plain hp => exact hp.mem
  | fault | await | push | pop => exact .inl rfl

theorem exec_st {i : Instr} {s t : State} (h : exec i s = .next t) (hi : ∀ x, i ≠ .ldSTVx x) : t.st = s.st := by
  cases exec_answers h with
  | plain hp => exact hp.st hi
  | fault | await | push | pop => rfl

/-! ### Every instruction answers a next state while sp is at most 16 (R18, R206) -/

theorem guardRead_next (n : Nat) (s u : State) : ∃ t, guardRead n s u = .next t := by
  rw [guardRead]
  cases precheck readCheck s.i.toNat n with
  | none => exact ⟨u, rfl⟩
  | some c => exact ⟨s.halted c, rfl⟩

theorem guardWrite_next (n : Nat) (s u : State) : ∃ t, guardWrite n s u = .next t := by
  rw [guardWrite]
  cases precheck writeCheck s.i.toNat n with
  | none => exact ⟨u, rfl⟩
  | some c => exact ⟨s.halted c, rfl⟩

theorem skipOnKey_next (p : Bool) (x : Reg) (s : State) : ∃ t, skipOnKey p x s = .next t := by
  rw [skipOnKey]
  cases keyOperand x s with
  | ok k => exact ⟨_, rfl⟩
  | error c => exact ⟨s.halted c, rfl⟩

theorem callTo_next {s : State} (target : Word) (h : s.sp.toNat ≤ 16) : ∃ t, callTo target s = .next t := by
  obtain hlt | hfull := Nat.lt_or_eq_of_le h
  · exact ⟨_, callTo_of_lt target hlt⟩
  · exact ⟨_, callTo_of_full target hfull⟩

theorem popReturn_next {s : State} (h : s.sp.toNat ≤ 16) : ∃ t, popReturn s = .next t := by
  by_cases h0 : s.sp.toNat = 0
  · exact ⟨_, popReturn_of_empty (BitVec.eq_of_toNat_eq h0)⟩
  · exact ⟨_, popReturn_of_pos (by omega) (by omega)⟩

theorem exec_next (i : Instr) {s : State} (h : s.sp.toNat ≤ 16) : ∃ t, exec i s = .next t := by
  cases i with
  | ret => exact popReturn_next h
  | call nnn => exact callTo_next (addrWord nnn) h
  | skp x | sknp x => exact skipOnKey_next _ x s
  | ldB x | storeRegs x => exact guardWrite_next _ s _
  | drw x y n | loadRegs x => exact guardRead_next _ s _
  | _ => exact ⟨_, rfl⟩

theorem step_next {s : State} (h : s.sp.toNat ≤ 16) : ∃ t, step s = .next t := by
  obtain ⟨-, hs⟩ | ⟨-, -, _, -, hs⟩ | ⟨-, -, -, _, hs⟩ | ⟨-, i, -, hs⟩ := step_cases s
  · exact ⟨s, hs⟩
  · exact ⟨_, hs⟩
  · exact ⟨_, hs⟩
  · rw [hs]
    exact exec_next i (s := s.tick) h

/-! ### Steps -/

theorem step_of_ne_run {s : State} (h : s.mode ≠ .run) : step s = .next s := by
  cases hm : s.mode with
  | run => exact absurd hm h
  | wait r => exact step_of_wait hm
  | halt => exact step_of_halt hm

/-- A RUN-mode step that fetches no `FX18` leaves the sound timer as the tick did, also when it faults. -/
theorem step_st {s t : State} (h : step s = .next t) (hm : s.mode = .run) (hi : ∀ x, ¬ Fetches s (.ldSTVx x)) :
    t.st = countDown s.st := by
  obtain ⟨hne, -⟩ | ⟨-, -, _, -, hs⟩ | ⟨-, -, -, _, hs⟩ | ⟨-, i, hf, hs⟩ := step_cases s
  · exact absurd hm hne
  · cases hs.symm.trans h; rfl
  · cases hs.symm.trans h; rfl
  · exact exec_st (hs.symm.trans h) fun x hx => hi x (hx ▸ hf)

/-- Memory after a step is as before it, or one block in RAM was written. -/
theorem step_mem {s t : State} (h : step s = .next t) : t.mem = s.mem ∨ StoresInRam s t := by
  obtain ⟨-, hs⟩ | ⟨-, -, _, -, hs⟩ | ⟨-, -, -, _, hs⟩ | ⟨-, i, -, hs⟩ := step_cases s
  · cases hs.symm.trans h; exact .inl rfl
  · cases hs.symm.trans h; exact .inl rfl
  · cases hs.symm.trans h; exact .inl rfl
  · exact (exec_mem (hs.symm.trans h)).imp_right And.right

end Sys2Proof.Machine

namespace Sys2Proof.Proofs

open Sys2Proof Sys2Proof.Machine Sys2Proof.Claims

/-- Settles O1: the step is `exec` of the fetched instruction after the tick, and the tick counts the timers down. -/
theorem stepRunsFetchedInstruction : Obligations.StepRunsFetchedInstruction :=
  fun s _ hm hf => ⟨step_of_fetches hm hf, countDown_toNat s.dt, countDown_toNat s.st,
    ⟨fun _ _ => rfl, rfl, fun _ => rfl, ⟨rfl, rfl⟩, ⟨rfl, rfl⟩, ⟨rfl, rfl⟩, ⟨rfl, rfl, rfl⟩⟩, rfl⟩

/-- Settles O2: an even `pc` whose second byte is past memory is itself past memory. -/
theorem badFetchHalts : Obligations.BadFetchHalts :=
  fun _ hm => ⟨step_faultTaken_of_odd hm,
    fun ⟨heven, hoob⟩ => step_faultTaken_of_oob hm heven (by omega)⟩

/-- Settles O3: a word that matches no row decodes to nothing, so the decode takes the fault. -/
theorem illegalWordHalts : Obligations.IllegalWordHalts := by
  intro s w hm hf hw hill
  refine ⟨s.tick.halted (.decodeError w), ?_, s.tick.halted_faultTaken _⟩
  rw [step_of_fetchable hm hf, hw, decodeAndExec]
  cases hd : decodeWord w with
  | ok i => exact absurd ((decodeWord_ok_iff_legalWord w).mp ⟨i, hd⟩) (Bool.eq_false_iff.mp hill)
  | error e => rfl

/-- Settles O4: one step outside RUN changes nothing, and so does any number of them. -/
theorem waitAndHaltHoldStill : Obligations.WaitAndHaltHoldStill :=
  fun k _ hm => run_of_step_self (M := Sys2Proof.core) (step_of_ne_run hm) k

/-- Settles O5: the tick counts both timers down, and only `FX15` and `FX18` write one after it. -/
theorem everyRunStepTicks : Obligations.EveryRunStepTicks := by
  intro s t hm h
  have hdt : (∀ x, ¬ Fetches s (.ldDTVx x)) → t.dt.toNat = s.dt.toNat - 1 := fun hi => by
    rw [step_dt h hm hi, countDown_toNat]
  have hst : (∀ x, ¬ Fetches s (.ldSTVx x)) → t.st.toNat = s.st.toNat - 1 := fun hi => by
    rw [step_st h hm hi, countDown_toNat]
  refine ⟨?_, ?_, hdt, hst⟩
  · by_cases hi : ∃ x, Fetches s (.ldDTVx x)
    · obtain ⟨x, hx⟩ := hi
      cases (step_of_fetches hm hx).symm.trans h
      exact .inr ⟨x, hx, rfl⟩
    · exact .inl (hdt (not_exists.mp hi))
  · by_cases hi : ∃ x, Fetches s (.ldSTVx x)
    · obtain ⟨x, hx⟩ := hi
      cases (step_of_fetches hm hx).symm.trans h
      exact .inr ⟨x, hx, rfl⟩
    · exact .inl (hst (not_exists.mp hi))

/-- Settles O6: only a call or a return can stop the model, and only with sp above 16. -/
theorem stepNeverStopsWithLegalStackPointer : Obligations.StepNeverStopsWithLegalStackPointer :=
  fun _ h => step_next h

/-- Settles O7: the five things an instruction can answer, and the two faults before it runs. -/
theorem modeTransitionsOfAStep : Obligations.ModeTransitionsOfAStep := by
  intro s t h
  refine ⟨fun hne => ?_, fun hm => ?_⟩
  · cases (step_of_ne_run hne).symm.trans h; rfl
  obtain ⟨hne, -⟩ | ⟨-, -, _, -, hs⟩ | ⟨-, -, -, _, hs⟩ | ⟨-, i, hf, hs⟩ := step_cases s
  · exact absurd hm hne
  · cases hs.symm.trans h; exact .inr (.inr ⟨_, s.tick.halted_faultTaken _⟩)
  · cases hs.symm.trans h; exact .inr (.inr ⟨_, s.tick.halted_faultTaken _⟩)
  cases exec_answers (hs.symm.trans h) with
  | fault c => exact .inr (.inr ⟨c, s.tick.halted_faultTaken c⟩)
  | await x => exact .inr (.inl ⟨x, hf, rfl, rfl⟩)
  | push | pop => exact .inl ⟨hm, rfl⟩
  | plain hp => exact .inl ⟨hp.mode.trans hm, hp.fault⟩

/-- Settles O20: a step writes memory inside RAM only, and RAM begins where the font ends. -/
theorem stepNeverChangesTheFont : Obligations.StepNeverChangesTheFont := by
  intro s t h a ha
  obtain hmem | ⟨bs, hmem, hlo, -⟩ := step_mem h
  · rw [hmem]
  · rw [hmem]
    exact Memory.read_writeRange_of_outside s.mem (.inl (Nat.lt_of_lt_of_le ha hlo))

/-- Settles O21: a fault, a wait, a call and a return write nothing of the table, and a plain completion what its
instruction owns. -/
theorem instructionsWriteOnlyWhatTheyOwn : Obligations.InstructionsWriteOnlyWhatTheyOwn := by
  intro i s t h
  obtain ⟨hkeys, hdt⟩ := exec_keys_dt h
  have hdt' : (∀ x, i ≠ .ldDTVx x) → t.dt = s.dt := fun hne => hdt.resolve_left fun ⟨x, hx⟩ => hne x hx
  have hmem : mayWriteMemory i = false → SameMemory s t := fun hno a => by
    rw [(exec_mem h).resolve_right fun hw => Bool.false_ne_true (hno.symm.trans hw.1)]
  have hscreen : mayWriteScreen i = false → SameScreen s t := fun hno => exec_sameScreen hno h
  suffices hrest : (∀ r, mayWriteReg i r = false → t.reg r = s.reg r) ∧ (mayWriteIndex i = false → t.i = s.i) ∧
      (usesStack i = false → SameStack s t) ∧ ((∀ x nn, i ≠ .rnd x nn) → t.draws = s.draws) by
    obtain ⟨hregs, hindex, hstack, hdraws⟩ := hrest
    exact ⟨hregs, hindex, hmem, hscreen, hstack, hdt', exec_st h, hkeys, hdraws⟩
  cases exec_answers h with
  | fault | await => exact ⟨fun _ _ => rfl, fun _ => rfl, fun _ => ⟨rfl, rfl⟩, fun _ => rfl⟩
  | push | pop => exact ⟨fun _ _ => rfl, fun _ => rfl, nofun, fun _ => rfl⟩
  | plain hp => exact ⟨hp.regs, hp.index, fun _ => hp.stack, hp.draws⟩

end Sys2Proof.Proofs
end

section
/-! PROOFS. The call and the return, and a call followed by its return (R101, R103, R109; decision D7). -/

namespace Sys2Proof.Machine

open Sys2Proof.Claims

/-! ### The stack slots after a push and a pop (R18) -/

theorem State.getElem_stack_pushed (s : State) (w : Word) (h : s.sp.toNat < 16) (k : Fin 16) :
    (s.pushed w h).stack[k] = if k.val = s.sp.toNat then s.pc else s.stack[k] := by
  rw [State.pushed_stack, Fin.getElem_fin, Vector.getElem_set]
  exact if_congr eq_comm rfl rfl

theorem State.sp_pushed_toNat (s : State) (w : Word) (h : s.sp.toNat < 16) :
    (s.pushed w h).sp.toNat = s.sp.toNat + 1 :=
  BitVec.toNat_add_of_lt (y := 1) (show s.sp.toNat + 1 < 256 by omega)

theorem State.sp_popped_toNat (s : State) (h0 : s.sp ≠ 0) (h : s.sp.toNat - 1 < 16) :
    (s.popped h).sp.toNat = s.sp.toNat - 1 := by
  have hpos : s.sp.toNat ≠ 0 := fun e => h0 (BitVec.eq_of_toNat_eq e)
  exact BitVec.toNat_sub_of_le (y := 1) (show 1 ≤ s.sp.toNat by omega)

/-- The return goes 2 past the newest entry. -/
theorem State.popped_pc_of_val (s : State) (h : s.sp.toNat - 1 < 16) {k : Fin 16} (hk : k.val = s.sp.toNat - 1) :
    (s.popped h).pc = s.stack[k] + 2 := by
  obtain rfl : k = ⟨s.sp.toNat - 1, h⟩ := Fin.ext hk
  rfl

/-! ### Program counters that cannot wrap (R15, R44) -/

theorem toNat_add_two_of_fetchable {pc : Word} (h : Fetchable pc) : (pc + 2).toNat = pc.toNat + 2 :=
  BitVec.toNat_add_of_lt (y := 2) (show pc.toNat + 2 < 65536 by have := h.2; omega)

theorem toNat_add_four_of_fetchable {pc : Word} (h : Fetchable pc) : (pc + 4).toNat = pc.toNat + 4 :=
  BitVec.toNat_add_of_lt (y := 4) (show pc.toNat + 4 < 65536 by have := h.2; omega)

/-! ### A state whose next step is a return (R44, R101) -/

theorem fetches_ret_of_bytes {s : State} {nnn : Addr12} (hpc : s.pc = addrWord nnn) (heven : nnn.toNat % 2 = 0)
    (hhi : Memory.read s.mem nnn.toNat = 0x00) (hlo : Memory.read s.mem (nnn.toNat + 1) = 0xEE) : Fetches s .ret := by
  refine ⟨hpc ▸ addrWord_fetchable heven, ?_⟩
  rw [hpc, addrWord_toNat, hhi, hlo]
  decide

end Sys2Proof.Machine

namespace Sys2Proof.Proofs

open Sys2Proof Sys2Proof.Machine Sys2Proof.Claims

/-- Settles O24: with a free slot the call is the push, which writes its own slot only. -/
theorem callPushesItsOwnAddress : Obligations.CallPushesItsOwnAddress :=
  fun nnn s h => ⟨s.pushed (addrWord nnn) h, callTo_of_lt _ h, s.sp_pushed_toNat _ h, addrWord_toNat nnn,
    s.getElem_stack_pushed _ h, fun _ _ => rfl, rfl, fun _ => rfl, ⟨rfl, rfl⟩, ⟨rfl, rfl⟩, ⟨rfl, rfl, rfl⟩⟩

/-- Settles O25: with a live entry the return is the pop, which writes no slot. -/
theorem returnResumesAfterTheCall : Obligations.ReturnResumesAfterTheCall := by
  intro s h0 h16
  have hs : s.sp.toNat - 1 < 16 := by omega
  have hne : s.sp ≠ 0 := fun e => h0.ne' (congrArg BitVec.toNat e)
  exact ⟨s.popped hs, popReturn_of_pos h0 hs, s.sp_popped_toNat hne hs, fun _ hk => s.popped_pc_of_val hs hk, rfl,
    fun _ _ => rfl, rfl, fun _ => rfl, ⟨rfl, rfl⟩, ⟨rfl, rfl⟩, ⟨rfl, rfl, rfl⟩⟩

/-- Settles O27: the return pops the slot that the call has just written. -/
theorem callThenReturnRoundTrip : Obligations.CallThenReturnRoundTrip := by
  intro s nnn hm hsp hf heven hhi hlo
  let t := s.tick.pushed (addrWord nnn) hsp
  have hcall : step s = .next t := (step_of_fetches hm hf).trans (callTo_of_lt (s := s.tick) _ hsp)
  have htsp : t.tick.sp.toNat = s.sp.toNat + 1 := s.tick.sp_pushed_toNat (addrWord nnn) hsp
  have hpop : t.tick.sp.toNat - 1 < 16 := by omega
  have hret : step t = .next (t.tick.popped hpop) :=
    (step_of_fetches (s := t) hm (fetches_ret_of_bytes rfl heven hhi hlo)).trans (popReturn_of_pos (by omega) hpop)
  have hslot : ∀ k : Fin 16, k.val = s.sp.toNat → t.stack[k] = s.pc := fun k hk =>
    (s.tick.getElem_stack_pushed (addrWord nnn) hsp k).trans (if_pos hk)
  refine ⟨t, t.tick.popped hpop, hcall, hret, ?_, BitVec.add_sub_cancel s.sp 1, hslot, ?_, ?_⟩
  · have hpc : (t.tick.popped hpop).pc = t.stack[(⟨s.sp.toNat, hsp⟩ : Fin 16)] + 2 :=
      t.tick.popped_pc_of_val hpop (by simp only [htsp]; omega)
    rw [hpc, hslot _ rfl]
    exact toNat_add_two_of_fetchable hf.1
  · show (countDown (countDown s.dt)).toNat = _
    rw [countDown_toNat, countDown_toNat]
    omega
  · show (countDown (countDown s.st)).toNat = _
    rw [countDown_toNat, countDown_toNat]
    omega

end Sys2Proof.Proofs
end

section
/-! PROOFS. The invariant of the CORE (10_state section 13): it holds after a reset with any image, every step keeps it,
and so does every action of the host. -/

namespace Sys2Proof.Machine

open Sys2Proof.Claims

/-! ### What the invariant does not look at (R36) -/

/-- The invariant reads memory, the stack, `pc`, the mode and the fault record, and nothing else. -/
theorem State.Inv.of_same {s t : State} (h : s.Inv) (hmem : t.mem = s.mem) (hstack : SameStack s t) (hpc : t.pc = s.pc)
    (hmode : t.mode = s.mode) (hfault : t.fault = s.fault) : t.Inv where
  memWf := hmem ▸ h.memWf
  memRam := hmem ▸ h.memRam
  spBound := hstack.1 ▸ h.spBound
  stackLive := by rw [hstack.1, hstack.2]; exact h.stackLive
  pcBound := hpc ▸ h.pcBound
  faultHalt := by rw [hfault, hmode]; exact h.faultHalt
  waitPc := by rw [hmode, hpc]; exact h.waitPc
  faultPc := by rw [hfault, hpc]; exact h.faultPc

theorem State.Inv.tick {s : State} (h : s.Inv) : s.tick.Inv := h.of_same rfl ⟨rfl, rfl⟩ rfl rfl rfl

theorem State.Inv.halted {s : State} (h : s.Inv) (c : Cause) : (s.halted c).Inv where
  memWf := h.memWf
  memRam := h.memRam
  spBound := h.spBound
  stackLive := h.stackLive
  pcBound := h.pcBound
  faultHalt := ⟨nofun, fun hne => absurd rfl hne⟩
  waitPc := nofun
  faultPc := fun _ hf => by cases hf; rfl

/-! ### What the invariant needs of a state in RUN or WAIT (R32, R36) -/

/-- Outside HALT no fault is recorded, so the clauses on the record hold. -/
theorem State.Inv.of_not_halted {t : State} (hwf : Memory.wf t.mem = true) (hram : Memory.inRam t.mem = true)
    (hsp : t.sp.toNat ≤ 16) (hlive : ∀ k : Fin 16, k.val < t.sp.toNat → Fetchable t.stack[k])
    (hpc : t.pc.toNat ≤ 0x10FE) (hmode : t.mode ≠ .halt) (hfault : t.fault = none)
    (hwait : ∀ r, t.mode = .wait r → Fetchable t.pc) : t.Inv where
  memWf := hwf
  memRam := hram
  spBound := hsp
  stackLive := hlive
  pcBound := hpc
  faultHalt := ⟨fun _ => hmode, fun _ => hfault⟩
  waitPc := hwait
  faultPc := fun _ hf => by rw [hfault] at hf; cases hf

theorem State.Inv.fault_of_run {s : State} (h : s.Inv) (hm : s.mode = .run) : s.fault = none :=
  h.faultHalt.mpr (by rw [hm]; nofun)

/-- The state after an instruction of RUN mode that stays in RUN. -/
theorem State.Inv.of_run {s t : State} (h : s.Inv) (hm : s.mode = .run)
    (hmem : t.mem = s.mem ∨ StoresInRam s t) (hsp : t.sp.toNat ≤ 16)
    (hlive : ∀ k : Fin 16, k.val < t.sp.toNat → Fetchable t.stack[k]) (hpc : t.pc.toNat ≤ 0x10FE)
    (hmode : t.mode = s.mode) (hfault : t.fault = s.fault) : t.Inv := by
  have htm : t.mode = .run := hmode.trans hm
  have hmem' : Memory.wf t.mem = true ∧ Memory.inRam t.mem = true := by
    obtain hsame | ⟨bs, hw, hlo, hhi⟩ := hmem
    · rw [hsame]
      exact ⟨h.memWf, h.memRam⟩
    · rw [hw]
      exact ⟨Memory.wf_writeRange h.memWf _ _, Memory.inRam_writeRange h.memRam (.inr ⟨hlo, hhi⟩)⟩
  exact .of_not_halted hmem'.1 hmem'.2 hsp hlive hpc (by rw [htm]; nofun) (hfault.trans (h.fault_of_run hm))
    fun r hr => by rw [htm] at hr; cases hr

/-! ### Every instruction and every step keep the invariant -/

theorem State.Inv.pushed {s : State} (h : s.Inv) (hm : s.mode = .run) (hf : Fetchable s.pc) (nnn : Addr12)
    (hs : s.sp.toNat < 16) : (s.pushed (addrWord nnn) hs).Inv := by
  have hsp := s.sp_pushed_toNat (addrWord nnn) hs
  refine h.of_run hm (.inl rfl) (by omega) (fun k hk => ?_) ((addrWord_le nnn).trans (by decide)) rfl rfl
  rw [s.getElem_stack_pushed]
  split
  · exact hf
  · exact h.stackLive k (by omega)

theorem State.Inv.popped {s : State} (h : s.Inv) (hm : s.mode = .run) (hne : s.sp ≠ 0) (hs : s.sp.toNat - 1 < 16) :
    (s.popped hs).Inv := by
  have hsp := s.sp_popped_toNat hne hs
  have hpos : s.sp.toNat ≠ 0 := fun e => hne (BitVec.eq_of_toNat_eq e)
  have hlive : Fetchable s.stack[(⟨s.sp.toNat - 1, hs⟩ : Fin 16)] := h.stackLive _ (by simp only; omega)
  refine h.of_run hm (.inl rfl) (by omega) (fun k hk => h.stackLive k (by omega)) ?_ rfl rfl
  have hle := hlive.2
  rw [s.popped_pc_of_val hs (k := ⟨s.sp.toNat - 1, hs⟩) rfl, toNat_add_two_of_fetchable hlive]
  omega

theorem State.Inv.plain {i : Instr} {s t : State} (h : s.Inv) (hm : s.mode = .run) (hf : Fetchable s.pc)
    (hp : Plain i s t) : t.Inv := by
  obtain ⟨hsp, hstack⟩ := hp.stack
  refine h.of_run hm (hp.mem.imp_right And.right) (hsp ▸ h.spBound) ?_ ?_ hp.mode hp.fault
  · rw [hsp, hstack]
    exact h.stackLive
  · have hle := hf.2
    obtain hpc | hpc | hpc := hp.pc
    · rw [hpc, toNat_add_two_of_fetchable hf]
      omega
    · rw [hpc, toNat_add_four_of_fetchable hf]
      omega
    · exact hpc

/-- An instruction executed where the step fetched it keeps the invariant. -/
theorem State.Inv.exec {i : Instr} {s t : State} (h : s.Inv) (hm : s.mode = .run) (hf : Fetchable s.pc)
    (ht : exec i s = .next t) : t.Inv := by
  cases exec_answers ht with
  | fault c => exact h.halted c
  | await x =>
    exact .of_not_halted h.memWf h.memRam h.spBound h.stackLive h.pcBound nofun (h.fault_of_run hm) fun _ _ => hf
  | push nnn hs => exact h.pushed hm hf nnn hs
  | pop hne hs => exact h.popped hm hne hs
  | plain hp => exact h.plain hm hf hp

theorem State.Inv.step {s t : State} (h : s.Inv) (ht : step s = .next t) : t.Inv := by
  obtain ⟨-, hs⟩ | ⟨-, -, _, -, hs⟩ | ⟨-, -, -, _, hs⟩ | ⟨hm, i, hf, hs⟩ := step_cases s
  · cases hs.symm.trans ht; exact h
  · cases hs.symm.trans ht; exact h.tick.halted _
  · cases hs.symm.trans ht; exact h.tick.halted _
  · exact h.tick.exec hm hf.1 (hs.symm.trans ht)

/-! ### The host's actions (R224, R225, R240 to R242) -/

theorem inv_reset : State.reset.Inv :=
  .of_not_halted rfl rfl (by decide) (fun _ hk => absurd hk (Nat.not_lt_zero _)) (by decide) nofun rfl nofun

theorem inv_resetWith (img : List Byte) : (resetWith img).Inv := by
  obtain hfits | hbig := Nat.lt_or_ge 3584 img.length |>.symm
  · rw [resetWith_of_fits hfits]
    have hram : Config.fontEnd ≤ Config.progBase ∧ Config.progBase + img.length ≤ Config.memSize :=
      ⟨by decide, by simp only [Config.progBase, Config.memSize]; omega⟩
    exact .of_not_halted (Memory.wf_writeRange inv_reset.memWf _ _)
      (Memory.inRam_writeRange inv_reset.memRam (.inr hram)) inv_reset.spBound inv_reset.stackLive inv_reset.pcBound
      nofun rfl nofun
  · rw [resetWith_of_oversize hbig]
    exact inv_reset.halted _

/-- A new key-down of a key that was up, in WAIT, completes the wait. -/
theorem setKey_of_wait {s : State} {r : Reg} {k : Key} (hm : s.mode = .wait r) (hup : s.key k = false) :
    setKey k true s = s.completeWait r k := by
  simp [setKey, hm, hup]

/-- Every other key event sets the level of its key and nothing else. -/
theorem setKey_of_other {s : State} {k : Key} {p : Bool}
    (h : (∀ r, s.mode ≠ .wait r) ∨ p = false ∨ s.key k = true) : setKey k p s = s.setKeyLevel k p := by
  unfold setKey
  split
  · next r hm =>
    obtain hmode | hp | hdown := h
    · exact absurd hm (hmode r)
    · rw [hp]; rfl
    · rw [hdown, Bool.not_true, Bool.and_false]; rfl
  · rfl
  · rfl

/-- Everything a key event can do. -/
theorem setKey_cases (k : Key) (p : Bool) (s : State) :
    (∃ r, s.mode = .wait r ∧ p = true ∧ s.key k = false ∧ setKey k p s = s.completeWait r k) ∨
      setKey k p s = s.setKeyLevel k p := by
  by_cases h : (∀ r, s.mode ≠ .wait r) ∨ p = false ∨ s.key k = true
  · exact .inr (setKey_of_other h)
  · simp only [not_or, not_forall, not_not, Bool.not_eq_false, Bool.not_eq_true] at h
    obtain ⟨⟨r, hm⟩, rfl, hup⟩ := h
    exact .inl ⟨r, hm, rfl, hup, setKey_of_wait hm hup⟩

theorem State.Inv.completeWait {s : State} (h : s.Inv) {r : Reg} (hm : s.mode = .wait r) (k : Key) :
    (s.completeWait r k).Inv := by
  have hf : Fetchable s.pc := h.waitPc r hm
  have hfault : s.fault = none := h.faultHalt.mpr (by rw [hm]; nofun)
  have hpc : (s.completeWait r k).pc.toNat = s.pc.toNat + 2 := toNat_add_two_of_fetchable hf
  have hle := hf.2
  exact .of_not_halted h.memWf h.memRam h.spBound h.stackLive (by omega) nofun hfault nofun

theorem State.Inv.setKey {s : State} (h : s.Inv) (k : Key) (p : Bool) : (setKey k p s).Inv := by
  obtain ⟨r, hm, -, -, hs⟩ | hs := setKey_cases k p s
  · exact hs ▸ h.completeWait hm k
  · exact hs ▸ h.of_same rfl ⟨rfl, rfl⟩ rfl rfl rfl

theorem State.Inv.act {s : State} (h : s.Inv) (e : Event) : ∃ t, act e s = .next t ∧ t.Inv := by
  cases e with
  | reset img => exact ⟨_, rfl, (inv_resetWith img).of_same rfl ⟨rfl, rfl⟩ rfl rfl rfl⟩
  | step =>
    obtain ⟨t, ht⟩ := step_next h.spBound
    exact ⟨t, ht, h.step ht⟩
  | setKey k p => exact ⟨_, rfl, h.setKey k p⟩
  | takeFrame => exact ⟨_, rfl, h.of_same rfl ⟨rfl, rfl⟩ rfl rfl rfl⟩

theorem actAll_cons {e : Event} {es : List Event} {s t : State} (h : act e s = .next t) :
    actAll (e :: es) s = actAll es t := by
  rw [actAll, h]

/-! ### Actions in HALT (R81, R204) -/

/-- An action other than a reset changes a halted state in the key table and the redraw flag only. -/
theorem act_of_halt {e : Event} {s : State} (hm : s.mode = .halt) (he : ∀ img, e ≠ .reset img) :
    ∃ keys rd, act e s = .next { s with keys := keys, rd := rd } := by
  cases e with
  | reset img => exact absurd rfl (he img)
  | step => exact ⟨s.keys, s.rd, step_of_halt hm⟩
  | setKey k p =>
    have hset : setKey k p s = s.setKeyLevel k p := setKey_of_other (.inl fun r hr => by rw [hm] at hr; cases hr)
    exact ⟨s.keys.set k p, s.rd, congrArg _ hset⟩
  | takeFrame => exact ⟨s.keys, false, rfl⟩

theorem actAll_of_halt {es : List Event} {s : State} (hm : s.mode = .halt) (hes : ∀ img, Event.reset img ∉ es) :
    ∃ keys rd, actAll es s = .next { s with keys := keys, rd := rd } := by
  induction es generalizing s with
  | nil => exact ⟨s.keys, s.rd, rfl⟩
  | cons e es ih =>
    obtain ⟨keys, rd, he⟩ := act_of_halt hm fun img h => hes img (h ▸ List.mem_cons_self)
    rw [actAll_cons he]
    exact ih (s := { s with keys := keys, rd := rd }) hm fun img h => hes img (List.mem_cons_of_mem e h)

end Sys2Proof.Machine

namespace Sys2Proof.Proofs

open Sys2Proof Sys2Proof.Machine Sys2Proof.Claims

/-- Settles O17: after reset memory lists nothing, no entry is live and no fault is recorded. -/
theorem resetMeetsTheInvariant : Obligations.ResetMeetsTheInvariant := inv_reset

/-- Settles O18: a fault keeps the invariant, and so does each thing a fetched instruction can answer. -/
theorem stepKeepsTheInvariant : Obligations.StepKeepsTheInvariant := fun _ _ h ht => h.step ht

/-- Settles O19, by induction on the actions: each answers a next state, with the invariant. -/
theorem hostActionsKeepTheInvariant : Obligations.HostActionsKeepTheInvariant := by
  intro es
  induction es with
  | nil => exact fun s h => ⟨s, rfl, h⟩
  | cons e es ih =>
    intro s h
    obtain ⟨t, he, ht⟩ := h.act e
    rw [actAll_cons he]
    exact ih t ht

/-- Settles O60: every action but a reset changes a halted state in the key table and the redraw flag only. -/
theorem haltIsFinalUntilReset : Obligations.HaltIsFinalUntilReset := by
  intro es s hm hes
  obtain ⟨keys, rd, h⟩ := actAll_of_halt hm hes
  exact ⟨_, h, hm, rfl, rfl, fun _ _ => rfl, rfl, fun _ => rfl, ⟨rfl, rfl⟩, ⟨rfl, rfl⟩, rfl⟩

/-- Settles O56: the two things a key event can do, the completion of the wait and the level alone. -/
theorem keyDownCompletesTheWait : Obligations.KeyDownCompletesTheWait := by
  intro k p s
  refine ⟨fun q => ?_, fun r hm hp hup => ?_, fun h => by rw [setKey_of_other h]; rfl⟩
  · obtain ⟨r, -, rfl, -, hs⟩ | hs := setKey_cases k p s
    · rw [hs]; exact s.key_setKeyLevel k q true
    · rw [hs]; exact s.key_setKeyLevel k q p
  · subst hp
    rw [setKey_of_wait hm hup]
    have hreg : (s.completeWait r k).reg r = BitVec.ofNat 8 k.val := State.reg_setReg_self _ r _
    refine ⟨?_, rfl, rfl, fun q hq => ?_, rfl, fun _ => rfl, ⟨rfl, rfl⟩, ⟨rfl, rfl⟩, ⟨rfl, rfl⟩, ⟨rfl, rfl, rfl⟩⟩
    · rw [hreg, BitVec.toNat_ofNat, Nat.mod_eq_of_lt (by omega)]
    · exact State.reg_setReg_of_ne _ _ fun e => hq (List.mem_singleton.mpr e)

/-- Settles O15: the image is one block written into the memory of the reset state. -/
theorem imageIsLoadedVerbatim : Obligations.ImageIsLoadedVerbatim := by
  intro img hfits
  rw [resetWith_of_fits (of_decide_eq_true hfits)]
  exact ⟨fun k hk => Memory.read_writeRange_inside inv_reset.memWf _ hk,
    fun a ha => Memory.read_writeRange_of_outside _ ha, rfl⟩

/-- Settles O14: each field of the reset state is evaluated, and memory lists nothing. -/
theorem resetLeavesTheStatedValues : Obligations.ResetLeavesTheStatedValues := by
  refine ⟨fun r => ?_, rfl, rfl, rfl, fun k => ?_, rfl, rfl, fun k => ?_, Screen.cell_blankScreen, rfl, rfl, rfl, ?_,
    fun a ha => unlistedByte_of_le ha, resetWith_of_fits (Nat.zero_le _)⟩
  · exact Vector.getElem_replicate r.isLt
  · exact Vector.getElem_replicate k.isLt
  · exact Vector.getElem_replicate k.isLt
  · decide

end Sys2Proof.Proofs
end

section
/-! PROOFS. The arithmetic with a flag, the shifts, the random byte and the index additions (R126 to R131, R141, R142;
decisions D3, D11, D12, D15). -/

namespace Sys2Proof.Machine

open Sys2Proof.Claims

/-! ### A result and then a flag (R9, R132) -/

theorem State.reg_setFlag_self (s : State) (f : Bool) : (s.setFlag f).reg 15 = if f then 1 else 0 :=
  s.reg_setReg_self vf _

theorem flagByte_of_iff {f : Bool} {p : Prop} [Decidable p] (h : f = true ↔ p) :
    (if f then 1 else 0 : Byte) = flagByte p :=
  if_congr h rfl rfl

theorem State.sameRegsBut_setFlag (s : State) (f : Bool) : SameRegsBut [15] s (s.setFlag f) :=
  fun _ hr => s.reg_setReg_of_ne _ fun e => hr (List.mem_singleton.mpr e)

theorem State.sameRegsBut_setReg_setFlag (s : State) (x : Reg) (b : Byte) (f : Bool) :
    SameRegsBut [x, 15] s ((s.setReg x b).setFlag f) := by
  intro r hr
  obtain ⟨hx, hf⟩ := not_or.mp (mt List.mem_cons.mpr hr)
  exact ((s.setReg x b).sameRegsBut_setFlag f r hf).trans (s.reg_setReg_of_ne b hx)

/-- An instruction whose meaning is the result `b` to `x` and then the flag `f`: the result is the number `n` unless `x`
is `VF`, the flag says whether `p` holds, and nothing else changes. -/
theorem exec_resultFlagTo_spec {i : Instr} {s : State} {x : Reg} {b : Byte} {f : Bool} {n : Nat} {p : Prop}
    [Decidable p] (hexec : exec i s = resultFlagTo x b f s) (hb : b.toNat = n) (hf : f = true ↔ p) :
    ∃ t, exec i s = .next t ∧ (x ≠ 15 → (t.reg x).toNat = n) ∧ t.reg 15 = flagByte p ∧ t.pc = s.pc + 2 ∧
      OnlyRegsPc [x, 15] s t := by
  refine ⟨((s.setReg x b).setFlag f).advance, hexec, fun hx => ?_,
    (State.reg_setFlag_self _ f).trans (flagByte_of_iff hf), rfl, s.sameRegsBut_setReg_setFlag x b f, rfl,
    fun _ => rfl, ⟨rfl, rfl⟩, ⟨rfl, rfl⟩, ⟨rfl, rfl⟩, ⟨rfl, rfl, rfl⟩⟩
  have hreg : ((s.setReg x b).setFlag f).reg x = b :=
    (State.reg_setReg_of_ne _ _ hx).trans (s.reg_setReg_self x b)
  exact (congrArg BitVec.toNat hreg).trans hb

/-! ### The results in natural numbers -/

theorem byte_sub_toNat (a b : Byte) : (a - b).toNat = (a.toNat + 256 - b.toNat) % 256 := by
  have hb := b.isLt
  rw [BitVec.toNat_sub]
  omega

theorem byte_shiftRight_one_toNat (a : Byte) : (a >>> 1).toNat = a.toNat / 2 := by
  rw [BitVec.toNat_ushiftRight, Nat.shiftRight_eq_div_pow, Nat.pow_one]

theorem byte_shiftLeft_one_toNat (a : Byte) : (a <<< 1).toNat = a.toNat * 2 % 256 := by
  rw [BitVec.toNat_shiftLeft, Nat.shiftLeft_eq, Nat.pow_one]

theorem highBitFlag_iff_le (a : Byte) : highBitFlag a = true ↔ 128 ≤ a.toNat := by
  have ha := a.isLt
  rw [highBitFlag_iff]
  omega

end Sys2Proof.Machine

namespace Sys2Proof.Proofs

open Sys2Proof Sys2Proof.Machine Sys2Proof.Claims

/-- Settles O33: the result is the wrapped sum and the flag the carry. -/
theorem addSetsCarry : Obligations.AddSetsCarry :=
  fun _ _ _ => exec_resultFlagTo_spec rfl (BitVec.toNat_add _ _) (carryFlag_iff _ _)

/-- Settles O34: both subtractions are one result and one comparison, with the operands exchanged. -/
theorem subtractsSetStrictlyGreater : Obligations.SubtractsSetStrictlyGreater :=
  fun _ _ _ => ⟨exec_resultFlagTo_spec rfl (byte_sub_toNat _ _) (greaterFlag_iff _ _),
    exec_resultFlagTo_spec rfl (byte_sub_toNat _ _) (greaterFlag_iff _ _)⟩

/-- Settles O35: the bit shifted out is the remainder by 2, or whether the byte is at least 128. -/
theorem shiftsPutTheLostBitInTheFlag : Obligations.ShiftsPutTheLostBitInTheFlag :=
  fun _ _ => ⟨exec_resultFlagTo_spec rfl (byte_shiftRight_one_toNat _) (lowBitFlag_iff _),
    exec_resultFlagTo_spec rfl (byte_shiftLeft_one_toNat _) (highBitFlag_iff_le _)⟩

/-- Settles O36: a bit of the result is a bit of the byte drawn and of the mask. -/
theorem randomIsMasked : Obligations.RandomIsMasked := by
  intro x nn s
  have hreg := s.countDraw.reg_setReg_self x (randomDraw s &&& nn)
  refine ⟨(s.countDraw.setReg x (randomDraw s &&& nn)).advance, rfl, hreg, fun k hk => ?_, rfl, rfl,
    s.countDraw.setReg_advance_onlyRegsPc x _⟩
  rw [State.reg_advance, hreg, BitVec.getLsbD_and, hk, Bool.and_false]

/-- Settles O38: `I` holds the wrapped sum and `VF` the flag of the unreduced one. -/
theorem addToIndexFlagsTwelveBitOverflow : Obligations.AddToIndexFlagsTwelveBitOverflow := by
  intro x s
  refine ⟨((s.setIndex (s.i + byteWord (s.reg x))).setFlag (indexFlag s.i (s.reg x))).advance, rfl, ?_,
    (State.reg_setFlag_self _ _).trans (flagByte_of_iff (indexFlag_iff s.i (s.reg x))), rfl,
    (s.setIndex _).sameRegsBut_setFlag _, fun _ => rfl, ⟨rfl, rfl⟩, ⟨rfl, rfl⟩, ⟨rfl, rfl⟩, ⟨rfl, rfl, rfl⟩⟩
  exact (BitVec.toNat_add _ _).trans (by rw [byteWord_toNat])

/-- Settles O39: the word written is the glyph address, which cannot wrap. -/
theorem glyphAddressIsFiveTimesTheRegister : Obligations.GlyphAddressIsFiveTimesTheRegister := by
  intro x s
  obtain ⟨t, ht, hi, hrest⟩ := exec_setIndex_spec (i := .ldF x) (s := s) rfl
  exact ⟨t, ht, hi ▸ glyphAddr_toNat (s.reg x), hrest⟩

end Sys2Proof.Proofs
end

section
/-! PROOFS. The canonical memories, and the stores and loads of blocks (R144 to R146; decisions D4, D6, D10, D12). -/

namespace Sys2Proof.Machine

open Sys2Proof.Claims

/-! ### A canonical memory is what it reads (log entry 22) -/

theorem Memory.wfFrom_cons {lo k : Nat} {b : Byte} {m : Memory} :
    Memory.wfFrom lo ((k, b) :: m) = true ↔ lo ≤ k ∧ b ≠ unlistedByte k ∧ Memory.wfFrom (k + 1) m = true := by
  simp [Memory.wfFrom, and_assoc]

theorem Memory.read_cons_self (k : Nat) (b : Byte) (m : Memory) : Memory.read ((k, b) :: m) k = b := if_pos rfl

theorem Memory.read_cons_of_ne {k a : Nat} (b : Byte) (m : Memory) (h : a ≠ k) :
    Memory.read ((k, b) :: m) a = Memory.read m a := if_neg h

/-- Two canonical memories that read the same: their first entries are the same, and their tails read the same. -/
theorem Memory.eq_of_read_eq {lo : Nat} {m m' : Memory} (hm : Memory.wfFrom lo m = true)
    (hm' : Memory.wfFrom lo m' = true) (h : ∀ a, Memory.read m a = Memory.read m' a) : m = m' := by
  induction m generalizing lo m' with
  | nil =>
    cases m' with
    | nil => rfl
    | cons c' m' =>
      obtain ⟨-, hb', -⟩ := Memory.wfFrom_cons.mp hm'
      exact absurd ((Memory.read_cons_self ..).symm.trans (h c'.1).symm) hb'
  | cons c m ih =>
    obtain ⟨k, b⟩ := c
    obtain ⟨hlo, hb, ht⟩ := Memory.wfFrom_cons.mp hm
    have hk := (Memory.read_cons_self k b m).symm.trans (h k)
    cases m' with
    | nil => exact absurd hk hb
    | cons c' m' =>
      obtain ⟨k', b'⟩ := c'
      obtain ⟨hlo', hb', ht'⟩ := Memory.wfFrom_cons.mp hm'
      have hk' := (Memory.read_cons_self k' b' m').symm.trans (h k').symm
      obtain hlt | rfl | hgt := Nat.lt_trichotomy k k'
      · exact absurd (hk.trans (Memory.read_of_lt (Memory.wfFrom_cons.mpr ⟨le_rfl, hb', ht'⟩) hlt)) hb
      · rw [Memory.read_cons_self] at hk
        subst hk
        refine congrArg _ (ih ht ht' fun a => ?_)
        by_cases ha : a = k
        · rw [ha, Memory.read_of_lt ht (Nat.lt_succ_self k), Memory.read_of_lt ht' (Nat.lt_succ_self k)]
        · have hread := h a
          rwa [Memory.read_cons_of_ne b m ha, Memory.read_cons_of_ne b m' ha] at hread
      · exact absurd (hk'.trans (Memory.read_of_lt (Memory.wfFrom_cons.mpr ⟨le_rfl, hb, ht⟩) hgt)) hb'

/-! ### The guards on a good and on a bad block (R42, R43, R58) -/

theorem guardWrite_of_inRam {n : Nat} {s : State} (u : State) (hn : 0 < n) (h16 : n ≤ 16) (hlo : 0x050 ≤ s.i.toNat)
    (hhi : s.i.toNat + n ≤ 0x1000) : guardWrite n s u = .next u := by
  rw [guardWrite_eq hn h16, if_neg (Nat.not_lt.mpr hlo), if_pos hhi]

theorem guardRead_of_inMemory {n : Nat} {s : State} (u : State) (hhi : s.i.toNat + n ≤ 0x1000) :
    guardRead n s u = .next u := by
  rw [guardRead_eq, if_pos (.inr hhi)]

theorem guardWrite_fontWrite {n : Nat} {s : State} (u : State) (hn : 0 < n) (h16 : n ≤ 16) (h : s.i.toNat < 0x050) :
    ∃ t, guardWrite n s u = .next t ∧ FaultTaken (.addressError .fontWrite s.i.toNat) s t :=
  ⟨_, by rw [guardWrite_eq hn h16, if_pos h], s.halted_faultTaken _⟩

theorem guardWrite_dataOob {n : Nat} {s : State} (u : State) (hn : 0 < n) (h16 : n ≤ 16)
    (h : 0xFFF < s.i.toNat + (n - 1)) :
    ∃ t, guardWrite n s u = .next t ∧ FaultTaken (.addressError .dataOob (max s.i.toNat 0x1000)) s t :=
  ⟨_, by rw [guardWrite_eq hn h16, if_neg (by omega), if_neg (by omega)], s.halted_faultTaken _⟩

theorem guardRead_dataOob {n : Nat} {s : State} (u : State) (hn : 0 < n) (h : 0xFFF < s.i.toNat + (n - 1)) :
    ∃ t, guardRead n s u = .next t ∧ FaultTaken (.addressError .dataOob (max s.i.toNat 0x1000)) s t :=
  ⟨_, by rw [guardRead_eq, if_neg (by omega)], s.halted_faultTaken _⟩

/-! ### Blocks in memory -/

theorem State.read_storeAtI {s : State} (hwf : Memory.wf s.mem = true) {bs : List Byte} {k : Nat}
    (hk : k < bs.length) : Memory.read (s.storeAtI bs).mem (s.i.toNat + k) = bs[k] :=
  Memory.read_writeRange_inside hwf _ hk

theorem State.sameMemoryBut_storeAtI (s : State) {bs : List Byte} {n : Nat} (hn : bs.length = n) :
    SameMemoryBut s.i.toNat n s (s.storeAtI bs) :=
  fun _ ha => Memory.read_writeRange_of_outside s.mem (hn ▸ ha)

theorem State.read_storeAtI_regsUpTo {s : State} (hwf : Memory.wf s.mem = true) {x k : Reg} (hk : k ≤ x) :
    Memory.read (s.storeAtI (regsUpTo x s)).mem (s.i.toNat + k.val) = s.reg k := by
  have hlen : k.val < (regsUpTo x s).length := by rw [length_regsUpTo]; exact Nat.lt_succ_of_le hk
  rw [State.read_storeAtI hwf hlen, getElem_regsUpTo x s k.val hlen k.isLt]

/-- An instruction whose meaning is the register file `v`, the index `w` and the next `pc` leaves the rest alone. `v` is
any file, so that no check of a field looks into the bytes loaded. -/
theorem exec_setRegs_setIndex_spec {i : Instr} {s : State} {v : Vector Byte 16} {w : Word}
    (hexec : exec i s = .next ((s.setRegs v).setIndex w).advance) :
    ∃ t, exec i s = .next t ∧ (∀ k : Reg, t.reg k = v[k]) ∧ t.i = w ∧ t.pc = s.pc + 2 ∧
      SameMemory s t ∧ SameStack s t ∧ SameTimers s t ∧ SameScreen s t ∧ SameControl s t :=
  ⟨_, hexec, fun _ => rfl, rfl, rfl, fun _ => rfl, ⟨rfl, rfl⟩, ⟨rfl, rfl⟩, ⟨rfl, rfl⟩, ⟨rfl, rfl, rfl⟩⟩

/-- With the block below 4096 the new index is not reduced. -/
theorem indexAfter_toNat_of_le {x : Reg} {s : State} (h : s.i.toNat + x.val ≤ 0xFFF) :
    (indexAfter x s).toNat = s.i.toNat + x.val + 1 := by
  rw [indexAfter_toNat]
  omega

/-! ### The meanings on a good block -/

theorem exec_ldB_of_inRam (x : Reg) {s : State} (hlo : 0x050 ≤ s.i.toNat) (hhi : s.i.toNat + 2 ≤ 0xFFF) :
    exec (.ldB x) s = .next (s.storeAtI (bcdDigits (s.reg x))).advance :=
  guardWrite_of_inRam _ (by decide) (by decide) hlo (by omega)

theorem exec_storeRegs_of_inRam {x : Reg} {s : State} (hlo : 0x050 ≤ s.i.toNat) (hhi : s.i.toNat + x.val ≤ 0xFFF) :
    exec (.storeRegs x) s = .next ((s.storeAtI (regsUpTo x s)).setIndex (indexAfter x s)).advance :=
  guardWrite_of_inRam _ (Nat.succ_pos _) x.isLt hlo (by omega)

theorem exec_loadRegs_of_inMemory {x : Reg} {s : State} (hhi : s.i.toNat + x.val ≤ 0xFFF) :
    exec (.loadRegs x) s = .next ((s.setRegs (regsLoaded x s)).setIndex (indexAfter x s)).advance :=
  guardRead_of_inMemory _ (by omega)

theorem byte_ofNat_toNat {n : Nat} (h : n < 256) : (BitVec.ofNat 8 n).toNat = n := by
  rw [BitVec.toNat_ofNat, Nat.mod_eq_of_lt h]

end Sys2Proof.Machine

namespace Sys2Proof.Proofs

open Sys2Proof Sys2Proof.Machine Sys2Proof.Claims

/-- Settles O45: the canonical form lists an address exactly when it reads otherwise than unlisted. -/
theorem canonicalMemoriesAreTheirReads : Obligations.CanonicalMemoriesAreTheirReads :=
  fun _ _ hm hm' h => Memory.eq_of_read_eq hm hm' h

/-- Settles O40: the three digits are one block of three bytes at `I`. -/
theorem bcdStoresThreeDigits : Obligations.BcdStoresThreeDigits := by
  intro x s hwf hlo hhi
  have hx := (s.reg x).isLt
  have hread : ∀ (k : Nat) (hk : k < 3), Memory.read (s.storeAtI (bcdDigits (s.reg x))).mem (s.i.toNat + k) =
      (bcdDigits (s.reg x))[k] := fun k hk => State.read_storeAtI hwf hk
  refine ⟨_, exec_ldB_of_inRam x hlo hhi, ?_, ?_, ?_, s.sameMemoryBut_storeAtI (length_bcdDigits _), rfl, rfl,
    fun _ _ => rfl, ⟨rfl, rfl⟩, ⟨rfl, rfl⟩, ⟨rfl, rfl⟩, ⟨rfl, rfl, rfl⟩⟩
  · exact (congrArg BitVec.toNat (hread 0 (by decide))).trans (byte_ofNat_toNat (by omega))
  · exact (congrArg BitVec.toNat (hread 1 (by decide))).trans (byte_ofNat_toNat (by omega))
  · exact (congrArg BitVec.toNat (hread 2 (by decide))).trans (byte_ofNat_toNat (by omega))

/-- Settles O41: the registers are one block at `I`, and `I` moves past it without wrapping. -/
theorem storeRegistersInclusive : Obligations.StoreRegistersInclusive :=
  fun x s hwf hlo hhi => ⟨_, exec_storeRegs_of_inRam hlo hhi, fun _ hk => State.read_storeAtI_regsUpTo hwf hk,
    s.sameMemoryBut_storeAtI (length_regsUpTo x s), indexAfter_toNat_of_le hhi, rfl, fun _ _ => rfl, ⟨rfl, rfl⟩,
    ⟨rfl, rfl⟩, ⟨rfl, rfl⟩, ⟨rfl, rfl, rfl⟩⟩

/-- Settles O42: each register up to `Vx` is its byte of the block, and `I` moves past it without wrapping. -/
theorem loadRegistersInclusive : Obligations.LoadRegistersInclusive := by
  intro x s hhi
  obtain ⟨t, ht, hreg, hi, hrest⟩ := exec_setRegs_setIndex_spec (exec_loadRegs_of_inMemory hhi)
  exact ⟨t, ht, fun k => (hreg k).trans (getElem_regsLoaded x s k), hi ▸ indexAfter_toNat_of_le hhi, hrest⟩

/-- Settles O43: the guard of each instruction refuses its block with the lowest bad address. -/
theorem badAddressesHaltWithNothingDone : Obligations.BadAddressesHaltWithNothingDone :=
  fun _ => ⟨fun _ => ⟨guardWrite_fontWrite (n := 3) _ (by decide) (by decide),
      guardWrite_dataOob (n := 3) _ (by decide) (by decide)⟩,
    fun x => ⟨guardWrite_fontWrite _ (Nat.succ_pos _) x.isLt, guardWrite_dataOob _ (Nat.succ_pos _) x.isLt⟩,
    fun _ h => guardRead_dataOob _ (Nat.succ_pos _) h,
    fun _ _ _ hn h => guardRead_dataOob _ hn (by omega)⟩

end Sys2Proof.Proofs
end

section
/-! PROOFS. The store and load of one block in turn (R147; decisions D6, D10). -/

namespace Sys2Proof.Proofs

open Sys2Proof Sys2Proof.Machine Sys2Proof.Claims

/-- Settles O44, from what the three instructions do one by one. -/
theorem storeThenLoadRoundTrip : Obligations.StoreThenLoadRoundTrip := by
  intro x nnn s hwf hi hlo hhi
  obtain ⟨t, ht, hstored, -, -, htpc, htregs, -⟩ := storeRegistersInclusive x s hwf (hi ▸ hlo) (hi ▸ hhi)
  obtain ⟨u, hu, hui, hupc, huregs, humem, -⟩ := setIndexZeroExtends nnn t
  obtain ⟨w, hw, hloaded, hwi, hwpc, hwmem, -⟩ := loadRegistersInclusive x u (hui ▸ hhi)
  have hblock : ∀ k : Reg, k ≤ x → Memory.read u.mem (nnn.toNat + k.val) = s.reg k := fun k hk => by
    rw [humem, ← hi, hstored k hk]
  refine ⟨t, u, w, ht, hu, hw, fun k => ?_, fun k hk => (hwmem _).trans (hblock k hk), hui ▸ hwi, ?_⟩
  · rw [hloaded k, hui]
    split
    · next hk => exact hblock k hk
    · exact (huregs k List.not_mem_nil).trans (htregs k List.not_mem_nil)
  · rw [hwpc, hupc, htpc, BitVec.add_assoc, BitVec.add_assoc]
    rfl

end Sys2Proof.Proofs
end

section
/-! PROOFS. The cells a sprite changes, and the same sprite drawn twice (R161 to R165; decisions D3, D8, D9, D27). -/

namespace Sys2Proof.Machine

open Sys2Proof.Claims

/-! ### The cells under the 1 bits of a sprite (R161 to R163) -/

theorem rowCovers_iff {vx vy : Byte} {r : Nat} {b : Byte} {y : Fin 32} {x : Fin 64} :
    rowCovers vx vy r b y x = true ↔
      ∃ c, c < 8 ∧ spriteBit b c = true ∧ x = pixelColumn vx c ∧ y = pixelRow vy r := by
  have hmem : ∀ c, c ∈ [0, 1, 2, 3, 4, 5, 6, 7] ↔ c < 8 := fun c => List.mem_range (n := 8)
  simp only [rowCovers, List.any_eq_true, pixelHits, Bool.and_eq_true, decide_eq_true_eq, hmem]
  exact exists_congr fun c => and_congr_right fun _ => and_congr_right fun _ => and_comm

theorem rowsCover_iff {vx vy : Byte} {r : Nat} {bs : List Byte} {y : Fin 32} {x : Fin 64} :
    rowsCover vx vy r bs y x = true ↔
      ∃ k c, ∃ h : k < bs.length,
        c < 8 ∧ spriteBit bs[k] c = true ∧ x = pixelColumn vx c ∧ y = pixelRow vy (r + k) := by
  induction bs generalizing r with
  | nil => exact ⟨nofun, fun ⟨_, _, h, _⟩ => absurd h (Nat.not_lt_zero _)⟩
  | cons b bs ih =>
    rw [rowsCover, Bool.or_eq_true, rowCovers_iff, ih]
    constructor
    · rintro (⟨c, hc⟩ | ⟨k, c, hk, hc⟩)
      · exact ⟨0, c, Nat.succ_pos _, hc⟩
      · exact ⟨k + 1, c, Nat.succ_lt_succ hk, by rwa [Nat.add_right_comm] at hc⟩
    · rintro ⟨k, c, hk, hc⟩
      cases k with
      | zero => exact .inl ⟨c, hc⟩
      | succ k => exact .inr ⟨k, c, Nat.lt_of_succ_lt_succ hk, by rwa [Nat.add_right_comm]⟩

theorem spriteCovers_iff {x y : Reg} {n : Nibble} {s : State} {row : Fin 32} {col : Fin 64} :
    spriteCovers x y n s row col = true ↔
      ∃ r c : Nat, r < n.toNat ∧ c < 8 ∧ (Memory.read s.mem (s.i.toNat + r)).getLsbD (7 - c) = true ∧
        col.val = ((s.reg x).toNat + c) % 64 ∧ row.val = ((s.reg y).toNat + r) % 32 := by
  rw [spriteCovers, rowsCover_iff]
  simp only [Memory.length_readRange, Memory.getElem_readRange, spriteBit, pixelColumn, pixelRow, Fin.ext_iff,
    Nat.zero_add, exists_prop]

/-- XOR with a bit changes a bit exactly when that bit is 1. -/
theorem bool_xor_ne_iff (a b : Bool) : (a ^^ b) ≠ a ↔ b = true := by
  cases a <;> cases b <;> decide

/-! ### What a completing DRW leaves (R25, R161, R164) -/

theorem State.afterSprite_frame (x y : Reg) (n : Nibble) (s : State) :
    SameRegsBut [15] s (s.afterSprite x y n) ∧ (s.afterSprite x y n).i = s.i ∧ SameMemory s (s.afterSprite x y n) ∧
      SameStack s (s.afterSprite x y n) ∧ SameTimers s (s.afterSprite x y n) ∧ SameControl s (s.afterSprite x y n) :=
  ⟨(s.setScreen (spriteDrawn x y n s).screen).sameRegsBut_setFlag _, rfl, fun _ => rfl, ⟨rfl, rfl⟩, ⟨rfl, rfl⟩,
    ⟨rfl, rfl, rfl⟩⟩

theorem cell_afterSprite (x y : Reg) (n : Nibble) (s : State) (row : Fin 32) (col : Fin 64) :
    (s.afterSprite x y n).fb.cell row col = (s.fb.cell row col ^^ spriteCovers x y n s row col) :=
  cell_spriteDrawn x y n s row col

theorem reg_vf_afterSprite_eq_one_iff (x y : Reg) (n : Nibble) (s : State) :
    (s.afterSprite x y n).reg 15 = 1 ↔ ∃ row col, spriteCovers x y n s row col = true ∧ s.fb.cell row col = true := by
  rw [State.reg_vf_afterSprite, ← hit_spriteDrawn_iff_covers]
  cases (spriteDrawn x y n s).hit
  · decide
  · decide

/-! ### Two framebuffers with the same cells, and two sprites at the same place -/

theorem Screen.ext_cell {f g : Screen} (h : ∀ row col, f.cell row col = g.cell row col) : f = g :=
  Vector.ext fun row hrow => Vector.ext fun col hcol => h ⟨row, hrow⟩ ⟨col, hcol⟩

/-- After a draw that left `Vx` and `Vy` alone the same sprite covers the same cells. -/
theorem spriteCovers_afterSprite {x y : Reg} {n : Nibble} {s : State} (hx : (s.afterSprite x y n).reg x = s.reg x)
    (hy : (s.afterSprite x y n).reg y = s.reg y) :
    spriteCovers x y n (s.afterSprite x y n) = spriteCovers x y n s := by
  rw [spriteCovers, hx, hy]
  rfl

end Sys2Proof.Machine

namespace Sys2Proof.Proofs

open Sys2Proof Sys2Proof.Machine Sys2Proof.Claims

/-- Settles O47: every cell is XORed with whether the sprite covers it. -/
theorem drawTogglesTheCellsUnderTheSprite : Obligations.DrawTogglesTheCellsUnderTheSprite := by
  intro vx vy n s h
  refine ⟨s.afterSprite vx vy n, exec_drw_of_inMemory h, fun row col => ?_, rfl, rfl, s.afterSprite_frame vx vy n⟩
  rw [cell_afterSprite, bool_xor_ne_iff, spriteCovers_iff]

/-- Settles O49: the second draw XORs the same cells again, and a covered cell that is set before it is one that the
first draw set. -/
theorem drawingTwiceRestoresTheScreen : Obligations.DrawingTwiceRestoresTheScreen := by
  intro vx vy n s h
  refine ⟨s.afterSprite vx vy n, exec_drw_of_inMemory h, fun hx hy => ?_⟩
  have hcovers := spriteCovers_afterSprite hx hy
  refine ⟨_, exec_drw_of_inMemory (s := s.afterSprite vx vy n) h, Screen.ext_cell fun row col => ?_, ?_⟩
  · rw [cell_afterSprite, hcovers, cell_afterSprite, Bool.xor_assoc, Bool.xor_self, Bool.xor_false]
  · rw [reg_vf_afterSprite_eq_one_iff, hcovers]
    refine exists₂_congr fun row col => and_congr_left fun hset => ?_
    rw [cell_afterSprite] at hset
    cases hcell : s.fb.cell row col
    · simpa [hcell] using hset
    · simpa [hcell] using hset

end Sys2Proof.Proofs
end

section
/-! PROOFS. The key skips and the wait for a key (R170, R171, R175; decisions D13, D14). -/

namespace Sys2Proof.Machine

open Sys2Proof.Claims

theorem skipOnKey_of_key {x : Reg} {s : State} {k : Key} (p : Bool) (h : (s.reg x).toNat = k.val) :
    skipOnKey p x s = .next (s.skipIf (s.key k == p)) := by
  obtain ⟨hlt, hk⟩ | ⟨hge, -⟩ := keyOperand_cases x s
  · rw [skipOnKey, hk]
    obtain rfl : k = ⟨(s.reg x).toNat, hlt⟩ := Fin.ext h.symm
    rfl
  · omega

theorem skipOnKey_faultTaken {x : Reg} {s : State} (p : Bool) (h : 15 < (s.reg x).toNat) :
    ∃ t, skipOnKey p x s = .next t ∧ FaultTaken (.addressError .keyIndex (s.reg x).toNat) s t := by
  obtain ⟨hlt, -⟩ | ⟨-, hk⟩ := keyOperand_cases x s
  · omega
  · exact ⟨_, by rw [skipOnKey, hk]; rfl, s.halted_faultTaken _⟩

end Sys2Proof.Machine

namespace Sys2Proof.Proofs

open Sys2Proof Sys2Proof.Machine Sys2Proof.Claims

/-- Settles O50: with a key number the operand is that key, and the skip tests its level. -/
theorem keySkipsTestTheLevel : Obligations.KeySkipsTestTheLevel :=
  fun _ _ _ h => ⟨exec_skip_spec (skipOnKey_of_key true h) beq_iff_eq,
    exec_skip_spec (skipOnKey_of_key false h) beq_iff_eq⟩

/-- Settles O51: the operand of both skips is refused with the unmasked `Vx`. -/
theorem keyNumberAboveFifteenHalts : Obligations.KeyNumberAboveFifteenHalts :=
  fun _ _ h => ⟨skipOnKey_faultTaken true h, skipOnKey_faultTaken false h⟩

/-- Settles O55: the instruction writes the mode only. -/
theorem awaitKeyEntersWait : Obligations.AwaitKeyEntersWait :=
  fun x s => ⟨s.enterWait x, rfl, rfl,
    ⟨fun _ _ => rfl, rfl, fun _ => rfl, ⟨rfl, rfl⟩, ⟨rfl, rfl⟩, ⟨rfl, rfl⟩, ⟨rfl, rfl, rfl⟩⟩, rfl⟩

end Sys2Proof.Proofs
end
